-- ==== Sys2Proof/Word.lean ====
section
/-! DEFINITION. The word types of the engine (00_scope.md R7): bytes, 32-bit words, 16-byte blocks, and the 256-entry key box. -/

namespace Sys2Proof

/-- An unsigned 8-bit value (00_scope.md R7). -/
abbrev Byte := BitVec 8

/-- An unsigned 32-bit value (00_scope.md R7). -/
abbrev Word := BitVec 32

/-- A cipher block or a 128-bit key: 16 bytes in memory order (00_scope.md R6 `BLOCK`, 41_block_cipher.md R121). -/
abbrev Block := Vector Byte 16

/-- The 256 entries of the key box (10_state.md R30). -/
abbrev KeyBox := Vector Byte 256

/-- The number of data-memory addresses, `2^ADDR_W` (20_memory.md R50). -/
abbrev addressSpace : Nat := 2 ^ 32

end Sys2Proof
end

