-- ==== Sys2Proof/Syntax.lean ====
section
/-! DEFINITION. The nine legal commands of 30_encoding.md R75, one constructor for each row of spec/opcode_table.json. -/

namespace Sys2Proof

/-- A legal command. Commands carry no operands: their operands are the registers SRC, DST, LEN and STREAM_POS
(30_encoding.md R71). -/
inductive Instr where
  /-- `NOP`, 0x00000000 -/
  | nop
  /-- `ECB_DECRYPT.CORE`, 0x00000001 -/
  | ecbDecryptCore
  /-- `ECB_DECRYPT.META`, 0x00000011 -/
  | ecbDecryptMeta
  /-- `UNPAD`, 0x00000002 -/
  | unpad
  /-- `KEYBOX_BUILD`, 0x00000003 -/
  | keyboxBuild
  /-- `META_UNMASK`, 0x00000004 -/
  | metaUnmask
  /-- `META_DECRYPT`, 0x00000005 -/
  | metaDecrypt
  /-- `UNWRAP_KEY`, 0x00000006 -/
  | unwrapKey
  /-- `STREAM_DECIPHER`, 0x00000007 -/
  | streamDecipher
  deriving DecidableEq, Repr

end Sys2Proof
end

