-- ==== Sys2Proof/WellFormed.lean ====
section
/-! DEFINITION. The fields of a command word (30_encoding.md R70) and when they are legal (30_encoding.md R74). -/

namespace Sys2Proof

/-- The three fields of a command word (30_encoding.md R70). -/
structure CommandFields where
  /-- `RSVD`, bits 31:5 -/
  rsvd : BitVec 27
  /-- `KEYSEL`, bit 4 -/
  keysel : BitVec 1
  /-- `OP`, bits 3:0 -/
  op : BitVec 4
  deriving DecidableEq, Repr

/-- `OP` is one of 0x0 to 0x7 (30_encoding.md R72, R74). -/
def CommandFields.opDefined (f : CommandFields) : Bool := f.op.toNat < 8

/-- `RSVD` is 0 (30_encoding.md R74). -/
def CommandFields.rsvdZero (f : CommandFields) : Bool := f.rsvd == 0

/-- `KEYSEL = 1` only with `OP = 0x1` (30_encoding.md R74). -/
def CommandFields.keyselAllowed (f : CommandFields) : Bool := f.keysel == 0 || f.op == 1

/-- The fields make a legal command word (30_encoding.md R74). -/
def CommandFields.wellFormed (f : CommandFields) : Bool := f.opDefined && f.rsvdZero && f.keyselAllowed

/-- The fields of a command (30_encoding.md R72, R75). -/
def Instr.fields : Instr → CommandFields
  | .nop => { rsvd := 0, keysel := 0, op := 0x0 }
  | .ecbDecryptCore => { rsvd := 0, keysel := 0, op := 0x1 }
  | .ecbDecryptMeta => { rsvd := 0, keysel := 1, op := 0x1 }
  | .unpad => { rsvd := 0, keysel := 0, op := 0x2 }
  | .keyboxBuild => { rsvd := 0, keysel := 0, op := 0x3 }
  | .metaUnmask => { rsvd := 0, keysel := 0, op := 0x4 }
  | .metaDecrypt => { rsvd := 0, keysel := 0, op := 0x5 }
  | .unwrapKey => { rsvd := 0, keysel := 0, op := 0x6 }
  | .streamDecipher => { rsvd := 0, keysel := 0, op := 0x7 }

/-- A command is well formed when its fields are; every command of `Instr` is (30_encoding.md R75). -/
def Instr.WellFormed (i : Instr) : Prop := i.fields.wellFormed = true

end Sys2Proof
end

