-- ==== Sys2Proof/Decode.lean ====
section
/-! DEFINITION. The decoder of the command word, total on all `2^32` words, and the encoder (30_encoding.md R70 to R75). -/

namespace Sys2Proof

/-- Why a word is no command (30_encoding.md R74). -/
inductive DecodeReject where
  /-- `OP` is in 0x8 to 0xF -/
  | reservedOp
  /-- `RSVD` is not 0 -/
  | reservedBits
  /-- `KEYSEL = 1` with an `OP` other than 0x1 -/
  | keyselNotAllowed
  deriving DecidableEq, Repr

/-- The fields of a word (30_encoding.md R70). -/
def fieldsOf (w : Word) : CommandFields where
  rsvd := w.extractLsb' 5 27
  keysel := w.extractLsb' 4 1
  op := w.extractLsb' 0 4

/-- The word with the given fields (30_encoding.md R70). -/
def packFields (f : CommandFields) : Word :=
  f.rsvd.setWidth 32 <<< 5 ||| f.keysel.setWidth 32 <<< 4 ||| f.op.setWidth 32

/-- The command of the given `OP` and `KEYSEL` (30_encoding.md R72, R73), `RSVD` being 0. -/
def commandOf (op : BitVec 4) (keysel : BitVec 1) : Except DecodeReject Instr :=
  if op = 0x1 then (if keysel = 0 then .ok .ecbDecryptCore else .ok .ecbDecryptMeta)
  else if 0x8 ≤ op.toNat then .error .reservedOp
  else if keysel ≠ 0 then .error .keyselNotAllowed
  else if op = 0x0 then .ok .nop
  else if op = 0x2 then .ok .unpad
  else if op = 0x3 then .ok .keyboxBuild
  else if op = 0x4 then .ok .metaUnmask
  else if op = 0x5 then .ok .metaDecrypt
  else if op = 0x6 then .ok .unwrapKey
  else .ok .streamDecipher

/-- The decoder (30_encoding.md R75): the nine legal words are commands, every other word is rejected by name. -/
def decode (w : Word) : Except DecodeReject Instr :=
  if (fieldsOf w).rsvd ≠ 0 then .error .reservedBits
  else commandOf (fieldsOf w).op (fieldsOf w).keysel

/-- The word of a command (30_encoding.md R70, R72). -/
def encode (i : Instr) : Word := packFields i.fields

/-- The command in an instruction of `nbits` bits whose bits are `w`, numbered as spec/opcode_table.json numbers them: one 32-bit
word, and every bit above `nbits` is 0. -/
def decodeTableWord (nbits w : Nat) : Option Instr :=
  if w < 2 ^ 32 then (decode (BitVec.ofNat 32 (w % 2 ^ nbits))).toOption else none

end Sys2Proof
end

