-- ==== Sys2Proof/Config.lean ====
section
/-! DEFINITION. What is fixed for one chip: the constants of 00_scope.md R6, the parameters the platform supplies, and the free values. -/

namespace Sys2Proof

/-- `ID_VALUE` (00_scope.md R6, 10_state.md R22). -/
def Config.idValue : Word := 0x4E434D44

/-- `KEY_XOR` (00_scope.md R6). -/
def Config.keyXor : Byte := 0x64

/-- `META_XOR` (00_scope.md R6). -/
def Config.metaXor : Byte := 0x63

/-- `UNWRAP_SKIP` (00_scope.md R6). -/
def Config.unwrapSkip : Nat := 17

/-- `META_SKIP` (00_scope.md R6). -/
def Config.metaSkip : Nat := 22

/-- The size of the register block in bytes (20_memory.md R51). -/
def Config.regBlockSize : Nat := 4096

/-- What a byte of data memory that nothing has written reads as (assumption 2, DESIGN CHOICE). -/
def Config.unlistedByte : Byte := 0x00

/-- A FREE VALUE, one byte for each draw and slot. It has no body, so nothing can be proved of its value. Used where the spec says
a byte is unspecified: KEYBOX RAM after a reset (10_state.md R30), the output window of an aborted command (70_reset_and_hazards.md
R242), and bytes of non-coherent memory whose maintenance was skipped (93_implementation_defined.md U15). Assumption 16. -/
opaque Config.freeByte (draw slot : Nat) : Byte

/-- The two kinds of access the platform map distinguishes (00_scope.md R6). -/
inductive AccessKind where
  | read
  | write
  deriving DecidableEq, Repr

/-- What stands behind a range of addresses (20_memory.md R52, R58): memory, or a device with access side effects. -/
inductive RegionKind where
  | memory
  | device
  deriving DecidableEq, Repr

/-- One range of the platform map: the addresses `base` to `base + size - 1`, and which accesses of the engine it admits. -/
structure Region where
  base : Nat
  size : Nat
  kind : RegionKind
  readable : Bool
  writable : Bool
  deriving DecidableEq, Repr

/-- The values of the parameter `BLOCK_DECRYPT` (00_scope.md R6): the default, the AES-128 inverse cipher, or any other function,
named by a number (assumption 9). -/
inductive Cipher where
  | aes128
  | other (id : Nat)
  deriving DecidableEq, Repr

/-- The function of a `BLOCK_DECRYPT` other than the default: key, block, result. It has no body, so nothing can be proved of it, and
what holds of every `Cipher` holds of every function (assumption 9). -/
opaque Config.otherCipher (id : Nat) (key c : Block) : Block

/-- The parameters of 00_scope.md R6 for one chip on one platform. No step changes them. `MemAdmits` is given by ranges
(assumption 6). -/
structure Chip where
  /-- `BLOCK_DECRYPT` -/
  cipher : Cipher
  /-- `CORE_KEY` -/
  coreKey : Block
  /-- `META_KEY` -/
  metaKey : Block
  /-- `MemAdmits` -/
  regions : List Region
  /-- `REG_BASE` -/
  regBase : Nat
  /-- `DMA_COHERENT` -/
  dmaCoherent : Bool
  deriving DecidableEq, Repr

/-- The default `CORE_KEY` of 00_scope.md R6. -/
def Config.coreKey : Block :=
  #v[0x68, 0x7A, 0x48, 0x52, 0x41, 0x6D, 0x73, 0x6F, 0x35, 0x6B, 0x49, 0x6E, 0x62, 0x61, 0x78, 0x57]

/-- The default `META_KEY` of 00_scope.md R6. -/
def Config.metaKey : Block :=
  #v[0x23, 0x31, 0x34, 0x6C, 0x6A, 0x6B, 0x5F, 0x21, 0x5C, 0x5D, 0x26, 0x30, 0x55, 0x3C, 0x27, 0x28]

/-- The chip of `State.reset`: the default cipher and keys, and for the OPEN parameters the platform of the spec's own vectors
(95_test_vectors.md: memory admitted is `[0, 0x10000)`, `DMA_COHERENT = true`). Assumption 6, DESIGN CHOICE. -/
def Config.chip : Chip where
  cipher := .aes128
  coreKey := Config.coreKey
  metaKey := Config.metaKey
  regions := [{ base := 0, size := 0x10000, kind := .memory, readable := true, writable := true }]
  regBase := 0xF0000000
  dmaCoherent := true

end Sys2Proof
end

