-- ==== Sys2Proof/Machine/State.lean ====
section
/-! DEFINITION. The state of the engine, its host's pending accesses, the ways a step can stop, and the state after power-on reset
(10_state.md, 70_reset_and_hazards.md R240). -/

namespace Sys2Proof.Machine

/-- Ways a step stops as a fault. -/
inductive Fault where
  /-- `HOST_RACE`: the host writes a byte of a running command's input or output window, or reads its output window, while
  BUSY = 1 (20_memory.md R64, 93_implementation_defined.md U3, U4). Raised by the host's accesses. Safe: the spec gives no value. -/
  | hostRace
  /-- A command that passed its checks has a window byte that is a device or the engine's own register block
  (20_memory.md R52, R58, 93_implementation_defined.md U13). Raised by every command with windows. Safe: such a platform is
  outside the spec. -/
  | nonIdempotentWindow
  deriving DecidableEq, Repr

/-- Ways a step is refused. -/
inductive Refusal where
  /-- An instruction that has no meaning yet. Raised by no arm: every command has its meaning. Safe. -/
  | notModelled (mnemonic : String)
  /-- The host accesses a device of the platform, whose behaviour is outside the spec (20_memory.md R52). Raised by the host's
  data accesses, by no command. Safe. -/
  | deviceAccess
  deriving DecidableEq, Repr

/-- The error causes of 60_exceptions.md R200, with their information. -/
inductive CmdError where
  /-- `ERR_ILLEGAL_CMD` -/
  | illegalCmd
  /-- `ERR_NO_KEYBOX` -/
  | noKeybox
  /-- `ERR_CRYPTO_LENGTH` -/
  | cryptoLength
  /-- `ERR_EMPTY_KEY` -/
  | emptyKey
  /-- `ERR_RANGE` -/
  | range
  /-- `ERR_OVERLAP` -/
  | overlap
  /-- `ERR_BUS`, with the lowest address that is not admitted -/
  | bus (addr : Word)
  /-- `ERR_PADDING`, with the final byte, or all ones when there is none -/
  | padding (info : Word)
  deriving DecidableEq, Repr

/-- The two agents (00_scope.md R4). -/
inductive Agent where
  | host
  | engine
  deriving DecidableEq, Repr

/-- The width of a host access to the register block; only `word` is accepted (20_memory.md R60). -/
inductive AccessSize where
  | byte
  | half
  | word
  | dword
  deriving DecidableEq, Repr

/-- One thing the host, or its environment, does (30_encoding.md R76, 70_reset_and_hazards.md R257). -/
inductive HostOp where
  /-- a read of the register block at a byte offset from REG_BASE (`R`) -/
  | regRead (offset : BitVec 12) (size : AccessSize)
  /-- a write of the register block at a byte offset from REG_BASE (`W`) -/
  | regWrite (offset : BitVec 12) (size : AccessSize) (value : Word)
  /-- repeat an aligned 32-bit read until the bits under `mask` equal `value` (`POLL`) -/
  | poll (offset : BitVec 12) (mask value : Word)
  /-- wait until the IRQ output is high (70_reset_and_hazards.md R257) -/
  | waitIrq
  /-- a read of one byte of data memory -/
  | memRead (addr : Word)
  /-- a write of one byte of data memory (`MEM` is a sequence of these) -/
  | memWrite (addr : Word) (value : Byte)
  /-- write back the host's caches over `len` bytes from `addr` (20_memory.md R62) -/
  | cacheClean (addr : Word) (len : Nat)
  /-- invalidate the host's caches over `len` bytes from `addr` (20_memory.md R62, R63) -/
  | cacheInvalidate (addr : Word) (len : Nat)
  /-- a software step of the host outside the engine (`HOST`) -/
  | software
  /-- the engine's reset input is asserted (70_reset_and_hazards.md R240) -/
  | powerOnReset
  deriving DecidableEq, Repr

/-- What the bus answered to the host's last access (20_memory.md R60, R61). -/
inductive HostAnswer where
  /-- no access yet -/
  | none
  /-- an access that returns no data was performed -/
  | accepted
  /-- a register value -/
  | word (v : Word)
  /-- a byte of data memory -/
  | byte (v : Byte)
  /-- the bus error response of 20_memory.md R60 -/
  | busError
  deriving DecidableEq, Repr

/-- What the host's caches hold of one byte when DMA_COHERENT is false (20_memory.md R62, R63; assumption 7). -/
inductive CacheMark where
  /-- the host and the engine see the same byte -/
  | synced
  /-- the host wrote it and has not written it back -/
  | dirty
  /-- the engine wrote it and the host has not invalidated its copy -/
  | stale
  /-- both: the engine wrote it while the host had not written its own byte back, and either side's byte may still win -/
  | clashed
  deriving DecidableEq, Repr

/-- Data memory: address and byte, rising addresses, no byte that equals `Config.unlistedByte` (`Memory.wf`). -/
abbrev Memory := List Host.Cell

/-- The marks of the host's caches: address and mark, rising addresses, no mark that equals `synced`. -/
abbrev CacheMarks := List (Nat × CacheMark)

/-- The state of the machine. The registers carry the names of 10_state.md. -/
structure State where
  /-- the parameters of 00_scope.md R6; no step changes them -/
  chip : Chip
  /-- `CTRL.IRQ_EN` (10_state.md R23) -/
  irqEn : Bool
  /-- `STATUS.BUSY` (10_state.md R24) -/
  busy : Bool
  /-- `STATUS.DONE` (10_state.md R24) -/
  done : Bool
  /-- `STATUS.ERR` (10_state.md R24) -/
  err : Bool
  /-- `STATUS.KB_VALID` (10_state.md R24) -/
  kbValid : Bool
  /-- `CMD` (10_state.md R25) -/
  cmd : Word
  /-- `SRC` (10_state.md R26) -/
  src : Word
  /-- `DST` (10_state.md R27) -/
  dst : Word
  /-- `LEN` (10_state.md R28) -/
  len : Word
  /-- `OUT_LEN` (10_state.md R32) -/
  outLen : Word
  /-- `STREAM_POS` (10_state.md R29) -/
  streamPos : Word
  /-- `ERR_CODE[7:0]` (10_state.md R33) -/
  errCode : Byte
  /-- `ERR_INFO` (10_state.md R34) -/
  errInfo : Word
  /-- KEYBOX RAM (10_state.md R30) -/
  keybox : KeyBox
  /-- data memory (20_memory.md R50) -/
  mem : Memory
  /-- the host's caches (assumption 7) -/
  cache : CacheMarks
  /-- the host's coming accesses, next first (assumption 1) -/
  host : List HostOp
  /-- who makes the next steps (assumption 1) -/
  turns : List Agent
  /-- the answer to the host's last access (assumption 12) -/
  answer : HostAnswer
  /-- the index of the next free values (assumption 16) -/
  draws : Nat
  deriving DecidableEq, Repr

/-- The engine right after power-on reset (70_reset_and_hazards.md R240, 10_state.md section 5) on a given chip. DESIGN CHOICE, where
the spec gives no value: KEYBOX RAM all zeros (assumption 3), no byte of memory listed (assumption 2), every byte of the host's caches
synced, so that nothing is unwritten or out of date on a platform that is not coherent (assumption 7), and the model's own fields `host`
and `turns` empty (assumption 1), `answer` none (assumption 12) and `draws` 0 (assumption 16). -/
def State.resetOn (chip : Chip) : State where
  chip := chip
  irqEn := false
  busy := false
  done := false
  err := false
  kbValid := false
  cmd := 0
  src := 0
  dst := 0
  len := 0
  outLen := 0
  streamPos := 1
  errCode := 0
  errInfo := 0
  keybox := Vector.replicate 256 0
  mem := []
  cache := []
  host := []
  turns := []
  answer := .none
  draws := 0

/-- The machine right after reset, on the chip of `Config.chip`. -/
def State.reset : State := State.resetOn Config.chip

end Sys2Proof.Machine
end

