-- ==== Sys2Proof/Machine/Ops.lean ====
section
/-! DEFINITION. The named operations: data memory and the host's caches, the engine's reads and writes of them, how a command starts
(40_control.md R100), completes (40_control.md R107) and ends with an error (60_exceptions.md R202). -/

namespace Sys2Proof.Machine

/-! ### Sparse storage -/

/-- The value at key `a`; a key that is not listed has the value `d`. -/
def sparseGet {α : Type} (d : α) : List (Nat × α) → Nat → α
  | [], _ => d
  | c :: rest, a => if c.1 = a then c.2 else sparseGet d rest a

/-- List key `a` with value `v`, at its place in rising order. -/
def sparseInsert {α : Type} : List (Nat × α) → Nat → α → List (Nat × α)
  | [], a, v => [(a, v)]
  | c :: rest, a, v =>
    if a < c.1 then (a, v) :: c :: rest
    else if c.1 = a then (a, v) :: rest
    else c :: sparseInsert rest a v

/-- Give key `a` the value `v`; the value `d` is not listed. -/
def sparseSet {α : Type} [DecidableEq α] (d : α) (m : List (Nat × α)) (a : Nat) (v : α) : List (Nat × α) :=
  if v = d then m.filter (fun c => c.1 ≠ a) else sparseInsert m a v

/-- The canonical form: rising keys below `2^32`, and no key with the value `d`. -/
abbrev sparseWf {α : Type} (d : α) (m : List (Nat × α)) : Prop :=
  m.Pairwise (fun x y => x.1 < y.1) ∧ ∀ c ∈ m, c.2 ≠ d ∧ c.1 < addressSpace

/-! ### Data memory (20_memory.md R50) -/

/-- The byte at an address. -/
def Memory.read (m : Memory) (a : Nat) : Byte := sparseGet Config.unlistedByte m a

/-- Write one byte. -/
def Memory.write (m : Memory) (a : Nat) (b : Byte) : Memory := sparseSet Config.unlistedByte m a b

/-- Memory is in its canonical form. -/
abbrev Memory.wf (m : Memory) : Prop := sparseWf Config.unlistedByte m

/-! ### The host's caches (20_memory.md R62, R63; assumption 7) -/

/-- The mark of a byte. -/
def CacheMarks.get (c : CacheMarks) (a : Nat) : CacheMark := sparseGet .synced c a

/-- Mark a byte. -/
def CacheMarks.put (c : CacheMarks) (a : Nat) (k : CacheMark) : CacheMarks := sparseSet .synced c a k

/-- The marks are in their canonical form. -/
abbrev CacheMarks.wf (c : CacheMarks) : Prop := sparseWf CacheMark.synced c

/-- The mark of a byte, as it counts on this platform: on a coherent one every byte is synced (00_scope.md R6 `DMA_COHERENT`). -/
def State.mark (s : State) (a : Nat) : CacheMark := if s.chip.dmaCoherent then .synced else s.cache.get a

/-- The host's caches may still write an old byte of theirs back to memory (20_memory.md R62). -/
def CacheMark.unflushed : CacheMark → Bool
  | .synced => false
  | .dirty => true
  | .stale => false
  | .clashed => true

/-- A host read may answer an old byte of its caches (20_memory.md R63). -/
def CacheMark.outdated : CacheMark → Bool
  | .synced => false
  | .dirty => false
  | .stale => true
  | .clashed => true

/-- The mark once the engine has written the byte (20_memory.md R63): a host's byte that was not written back is still there. -/
def CacheMark.afterEngineWrite (k : CacheMark) : CacheMark := if k.unflushed then .clashed else .stale

/-- The mark once the host has written the byte back: its copy stays, and is old where the engine wrote too. -/
def CacheMark.afterClean : CacheMark → CacheMark
  | .synced => .synced
  | .dirty => .synced
  | .stale => .stale
  | .clashed => .stale

/-- Mark a byte; nothing to mark on a coherent platform. -/
def State.setMark (s : State) (a : Nat) (k : CacheMark) : State :=
  if s.chip.dmaCoherent then s else { s with cache := s.cache.put a k }

/-! ### Free values (assumption 16): slots of one step's draw -/

/-- A byte the engine reads that the host has not written back. -/
def State.freeInput (s : State) (a : Nat) : Byte := Config.freeByte s.draws (5 * a)

/-- A byte of memory that both sides wrote without maintenance. -/
def State.freeOutput (s : State) (a : Nat) : Byte := Config.freeByte s.draws (5 * a + 1)

/-- A byte the host reads from a stale copy. -/
def State.freeStale (s : State) (a : Nat) : Byte := Config.freeByte s.draws (5 * a + 2)

/-- A byte of the output window of an aborted command (70_reset_and_hazards.md R242). -/
def State.freeAborted (s : State) (a : Nat) : Byte := Config.freeByte s.draws (5 * a + 3)

/-- KEYBOX RAM after a reset (10_state.md R30, 70_reset_and_hazards.md R241). -/
def State.freeKeybox (s : State) : KeyBox := Vector.ofFn fun i : Fin 256 => Config.freeByte s.draws (5 * i.val + 4)

/-! ### The engine's accesses to data memory -/

/-- The byte the engine reads at an address (20_memory.md R58, R62): any value where the host has not written its caches back. -/
def State.dmaReadByte (s : State) (a : Nat) : Byte :=
  if (s.mark a).unflushed then s.freeInput a else s.mem.read a

/-- `MemRead(addr, n)` of 00_scope.md R7. -/
def State.dmaRead (s : State) (a n : Nat) : List Byte := (List.range' a n).map s.dmaReadByte

/-- The engine writes one byte (20_memory.md R63): the host's copy is out of date from then on, and where the host has not written
its own byte back the memory holds any value, and goes on to hold any value until the host writes the byte anew or drops its copy
(93_implementation_defined.md U15). DESIGN CHOICE (assumption 7): the bytes that a skipped invalidation of the output window before
START (20_memory.md R62, 70_reset_and_hazards.md R254) affects are these unwritten ones only; at a byte that the host holds
unchanged, or not at all, skipping it has no effect once the host invalidates after completion. -/
def State.dmaWriteByte (s : State) (a : Nat) (b : Byte) : State :=
  { s.setMark a (s.mark a).afterEngineWrite with
    mem := s.mem.write a (if (s.mark a).unflushed then s.freeOutput a else b) }

/-- `MemWrite(addr, n, V)` of 00_scope.md R7. -/
def State.dmaWrite (s : State) (a : Nat) : List Byte → State
  | [] => s
  | b :: rest => (s.dmaWriteByte a b).dmaWrite (a + 1) rest

/-! ### Starting and ending a command -/

/-- An accepted START (40_control.md R100). -/
def State.acceptStart (s : State) : State :=
  { s with busy := true, done := false, err := false, outLen := 0, errCode := 0, errInfo := 0 }

/-- `complete(out_len)` (40_control.md R107). -/
def State.complete (s : State) (outLen : Nat) : State :=
  { s with outLen := BitVec.ofNat 32 outLen, errCode := 0, errInfo := 0, err := false, busy := false, done := true }

/-- The code of an error (60_exceptions.md R200). -/
def CmdError.code : CmdError → Byte
  | .illegalCmd => 1
  | .noKeybox => 2
  | .cryptoLength => 3
  | .emptyKey => 4
  | .range => 5
  | .overlap => 6
  | .bus _ => 7
  | .padding _ => 8

/-- The information word of an error (60_exceptions.md R200). -/
def CmdError.info : CmdError → Word
  | .bus addr => addr
  | .padding info => info
  | .illegalCmd => 0
  | .noKeybox => 0
  | .cryptoLength => 0
  | .emptyKey => 0
  | .range => 0
  | .overlap => 0

/-- `raise ERR_X(info)` (60_exceptions.md R202): the engine's one way to take an error. -/
def State.raise (s : State) (e : CmdError) : State :=
  { s with errCode := e.code, errInfo := e.info, outLen := 0, err := true, busy := false, done := true }

/-- The host's acknowledgement, which stands in the place of a return from an error (60_exceptions.md R205): a write of STATUS clears
DONE where bit 1 is 1 and ERR where bit 2 is 1 (10_state.md R24), and does nothing while BUSY (40_control.md R101). -/
def State.acknowledge (s : State) (v : Word) : State :=
  if s.busy then s else { s with done := s.done && !v.getLsbD 1, err := s.err && !v.getLsbD 2 }

end Sys2Proof.Machine
end

