-- ==== Sys2Proof/Machine/Operands.lean ====
section
/-! DEFINITION. The operand forms of the commands: the windows (40_control.md R103), the window predicates (40_control.md R104), the
key of a command (30_encoding.md R73), and `Precheck` (60_exceptions.md R201). -/

namespace Sys2Proof

/-! ### The platform map -/

/-- A region holds an address. -/
def Region.holds (r : Region) (a : Nat) : Bool := r.base ≤ a && a < r.base + r.size

/-- A region lets the engine make an access. -/
def Region.permits (r : Region) : AccessKind → Bool
  | .read => r.readable
  | .write => r.writable

/-- `MemAdmits(addr, kind)` (00_scope.md R6, 20_memory.md R50). -/
def Chip.admits (c : Chip) (k : AccessKind) (a : Nat) : Bool := c.regions.any fun r => r.holds a && r.permits k

/-- A device of the platform stands at the address (20_memory.md R52). -/
def Chip.deviceAt (c : Chip) (a : Nat) : Bool := c.regions.any fun r => r.holds a && r.kind == .device

/-- The address decodes to the engine's own register block (20_memory.md R51, R52). -/
def Chip.ownBlock (c : Chip) (a : Nat) : Bool := c.regBase ≤ a && a < c.regBase + Config.regBlockSize

/-- The address is idempotent memory (20_memory.md R52, R58). -/
def Chip.plain (c : Chip) (a : Nat) : Bool := !c.deviceAt a && !c.ownBlock a

end Sys2Proof

namespace Sys2Proof.Machine

/-! ### Windows (40_control.md R103) -/

/-- The size of the input window: LEN bytes, and none for NOP. -/
def inSize (i : Instr) (s : State) : Nat :=
  match i with
  | .nop => 0
  | .ecbDecryptCore => s.len.toNat
  | .ecbDecryptMeta => s.len.toNat
  | .unpad => s.len.toNat
  | .keyboxBuild => s.len.toNat
  | .metaUnmask => s.len.toNat
  | .metaDecrypt => s.len.toNat
  | .unwrapKey => s.len.toNat
  | .streamDecipher => s.len.toNat

/-- `W_out`, the size of the output window (30_encoding.md R72, 40_control.md R103). -/
def outSize (i : Instr) (s : State) : Nat :=
  match i with
  | .nop => 0
  | .ecbDecryptCore => s.len.toNat
  | .ecbDecryptMeta => s.len.toNat
  | .unpad => s.len.toNat
  | .keyboxBuild => 0
  | .metaUnmask => s.len.toNat - Config.metaSkip
  | .metaDecrypt => s.len.toNat
  | .unwrapKey => s.len.toNat
  | .streamDecipher => s.len.toNat

/-- The address is in the input window. -/
def inInput (i : Instr) (s : State) (a : Nat) : Bool := s.src.toNat ≤ a && a < s.src.toNat + inSize i s

/-- The address is in the output window. -/
def inOutput (i : Instr) (s : State) (a : Nat) : Bool := s.dst.toNat ≤ a && a < s.dst.toNat + outSize i s

/-- The command being run: the one in CMD while BUSY (10_state.md R35). -/
def State.running (s : State) : Option Instr := if s.busy then (decode s.cmd).toOption else none

/-- The address is in the running command's input window. -/
def State.runningInput (s : State) (a : Nat) : Bool :=
  match s.running with
  | some i => inInput i s a
  | none => false

/-- The address is in the running command's output window. -/
def State.runningOutput (s : State) (a : Nat) : Bool :=
  match s.running with
  | some i => inOutput i s a
  | none => false

/-! ### The window predicates (40_control.md R104) -/

/-- `InRange` -/
def inRange (i : Instr) (s : State) : Bool :=
  s.src.toNat + inSize i s ≤ addressSpace && s.dst.toNat + outSize i s ≤ addressSpace

/-- `Overlap` -/
def overlaps (i : Instr) (s : State) : Bool :=
  0 < inSize i s && 0 < outSize i s && s.src != s.dst &&
    s.src.toNat < s.dst.toNat + outSize i s && s.dst.toNat < s.src.toNat + inSize i s

/-- The least address of `[base, base + size)` that the map does not admit. -/
def firstBad (c : Chip) (k : AccessKind) (base size : Nat) : Option Nat :=
  (List.range' base size).find? fun a => !c.admits k a

/-- `FirstBadRead` -/
def firstBadRead (i : Instr) (s : State) : Option Nat := firstBad s.chip .read s.src.toNat (inSize i s)

/-- `FirstBadWrite` -/
def firstBadWrite (i : Instr) (s : State) : Option Nat := firstBad s.chip .write s.dst.toNat (outSize i s)

/-- Every byte of both windows is idempotent memory (20_memory.md R52, R58; assumption 10). -/
def windowsPlain (i : Instr) (s : State) : Bool :=
  (List.range' s.src.toNat (inSize i s)).all s.chip.plain && (List.range' s.dst.toNat (outSize i s)).all s.chip.plain

/-! ### Precheck (60_exceptions.md R201) -/

/-- The commands whose LEN must be a multiple of 16 (60_exceptions.md R200, code 3). -/
def wantsBlocks : Instr → Bool
  | .nop => false
  | .ecbDecryptCore => true
  | .ecbDecryptMeta => true
  | .unpad => false
  | .keyboxBuild => false
  | .metaUnmask => false
  | .metaDecrypt => true
  | .unwrapKey => true
  | .streamDecipher => false

/-- The window checks, 5th to 7th of 60_exceptions.md R201. -/
def windowCheck (i : Instr) (s : State) : Option CmdError :=
  if inRange i s = false then some .range
  else if overlaps i s then some .overlap
  else match firstBadRead i s with
    | some a => some (.bus (BitVec.ofNat 32 a))
    | none =>
      match firstBadWrite i s with
      | some a => some (.bus (BitVec.ofNat 32 a))
      | none => none

/-- `Precheck` of a legal command (60_exceptions.md R201); the 1st check, the legality of the word, is the decoder's
(`Machine/Engine.lean`). -/
def precheck (i : Instr) (s : State) : Option CmdError :=
  if i = .nop then none
  else if i = .streamDecipher ∧ s.kbValid = false then some .noKeybox
  else if wantsBlocks i = true ∧ s.len.toNat % 16 ≠ 0 then some .cryptoLength
  else if i = .keyboxBuild ∧ s.len = 0 then some .emptyKey
  else windowCheck i s

end Sys2Proof.Machine
end

