-- ==== Sys2Proof/Machine/Command.lean ====
section
/-! DEFINITION. The frame every command with windows runs in, `Execute()` of 40_control.md R102. -/

namespace Sys2Proof.Machine

/-- `In`, the bytes of the input window (40_control.md R102, R105). -/
def State.input (s : State) : List Byte := s.dmaRead s.src.toNat s.len.toNat

/-- `Execute()` (40_control.md R102) of a legal command with windows: `Precheck`, read the input window, the body, the write of the
output window and the completion. `body` is the command's pseudocode on the input bytes; `effect` is the command-specific state it
writes at success (40_control.md R107). Every error is raised before anything is written (60_exceptions.md R203). -/
def runCommand (i : Instr) (body : State → List Byte → Except CmdError (List Byte)) (effect : State → List Byte → State)
    (s : State) : Host.Outcome State Fault Refusal :=
  match precheck i s with
  | some e => .next (s.raise e)
  | none =>
    if windowsPlain i s then
      match body s s.input with
      | .error e => .next (s.raise e)
      | .ok out => .next (((effect s s.input).dmaWrite s.dst.toNat out).complete out.length)
    else .fault .nonIdempotentWindow

/-- A command that writes no state of its own at success. -/
def noEffect (s : State) (_ : List Byte) : State := s

end Sys2Proof.Machine
end

