-- ==== Sys2Proof/Machine/BlockCipher.lean ====
section
/-! DEFINITION. ECB decryption and padding removal, and their commands (41_block_cipher.md R128 to R131). -/

namespace Sys2Proof.Machine

/-- `BLOCK_DECRYPT(K, C)`, a parameter of the chip whose default is AES-128 (00_scope.md R6, 41_block_cipher.md R120). -/
def blockDecrypt (cipher : Cipher) (key c : Block) : Block :=
  match cipher with
  | .aes128 => aesDecrypt key c
  | .other id => Config.otherCipher id key c

/-- The first 16 bytes of a sequence as a block. -/
def blockOf (c : List Byte) : Block := Vector.ofFn fun i : Fin 16 => c.getD i.val 0

/-- The first `n` blocks, each decrypted on its own, in order (41_block_cipher.md R128). -/
def ecbBlocks (cipher : Cipher) (key : Block) : Nat → List Byte → List Byte
  | 0, _ => []
  | n + 1, c => (blockDecrypt cipher key (blockOf c)).toList ++ ecbBlocks cipher key n (c.drop 16)

/-- `ECB_DEC(K, C)` (41_block_cipher.md R128). -/
def ecbDec (cipher : Cipher) (key : Block) (c : List Byte) : List Byte := ecbBlocks cipher key (c.length / 16) c

/-- `RemovePadding(P)` (41_block_cipher.md R129). -/
def removePadding (p : List Byte) : Except CmdError (List Byte) :=
  match p.getLast? with
  | none => .error (.padding 0xFFFFFFFF)
  | some n =>
    if n = 0 ∨ n.toNat > p.length then .error (.padding (n.setWidth 32))
    else .ok (p.take (p.length - n.toNat))

/-- `Body_ECB_DECRYPT` with `KEYSEL = 0` (41_block_cipher.md R130, 30_encoding.md R73). -/
def bodyEcbDecryptCore (s : State) (input : List Byte) : Except CmdError (List Byte) :=
  .ok (ecbDec s.chip.cipher s.chip.coreKey input)

/-- `Body_ECB_DECRYPT` with `KEYSEL = 1` (41_block_cipher.md R130, 30_encoding.md R73). -/
def bodyEcbDecryptMeta (s : State) (input : List Byte) : Except CmdError (List Byte) :=
  .ok (ecbDec s.chip.cipher s.chip.metaKey input)

/-- `Body_UNPAD` (41_block_cipher.md R131). -/
def bodyUnpad (_ : State) (input : List Byte) : Except CmdError (List Byte) := removePadding input

/-- ECB_DECRYPT.CORE (41_block_cipher.md R130). -/
def execEcbDecryptCore (s : State) : Host.Outcome State Fault Refusal := runCommand .ecbDecryptCore bodyEcbDecryptCore noEffect s

/-- ECB_DECRYPT.META (41_block_cipher.md R130). -/
def execEcbDecryptMeta (s : State) : Host.Outcome State Fault Refusal := runCommand .ecbDecryptMeta bodyEcbDecryptMeta noEffect s

/-- UNPAD (41_block_cipher.md R131). -/
def execUnpad (s : State) : Host.Outcome State Fault Refusal := runCommand .unpad bodyUnpad noEffect s

end Sys2Proof.Machine
end

