-- ==== Sys2Proof/Machine/Control.lean ====
section
/-! DEFINITION. NOP (40_control.md R108). -/

namespace Sys2Proof.Machine

/-- NOP: no windows, no checks, `complete(0)` (40_control.md R108). -/
def execNop (s : State) : Host.Outcome State Fault Refusal := .next (s.complete 0)

end Sys2Proof.Machine
end

