-- ==== Sys2Proof/Machine/KeyBox.lean ====
section
/-! DEFINITION. The key box builder and KEYBOX_BUILD (42_keybox.md R150, R152), and the KEYBOX window (10_state.md R31). -/

namespace Sys2Proof.Machine

/-- `KEYBOX[i]` -/
def boxGet (box : KeyBox) (i : Byte) : Byte := box[i.toNat]'i.isLt

/-- `box[i] <- v` -/
def boxSet (box : KeyBox) (i v : Byte) : KeyBox := box.set i.toNat v i.isLt

/-- The identity permutation (42_keybox.md R150). -/
def identityBox : KeyBox := Vector.ofFn fun i : Fin 256 => BitVec.ofNat 8 i.val

/-- What `BuildKeyBox` carries from one iteration to the next. -/
structure BoxLoop where
  box : KeyBox
  last : Byte
  offset : Nat
  deriving DecidableEq, Repr

/-- One iteration of `BuildKeyBox` (42_keybox.md R150). -/
def buildStep (km : List Byte) (st : BoxLoop) (i : Nat) : BoxLoop :=
  let swap := boxGet st.box (BitVec.ofNat 8 i)
  let c := swap + st.last + km.getD st.offset 0
  { box := boxSet (boxSet st.box (BitVec.ofNat 8 i) (boxGet st.box c)) c swap
    last := c
    offset := (st.offset + 1) % km.length }

/-- `BuildKeyBox(KM)` (42_keybox.md R150). -/
def buildKeyBox (km : List Byte) : KeyBox :=
  ((List.range 256).foldl (buildStep km) { box := identityBox, last := 0, offset := 0 }).box

/-- The word of `KEYBOX_WIN[m]` when it may be read (10_state.md R31): entry `4m` in the least significant byte. -/
def keyboxWord (box : KeyBox) (m : BitVec 6) : Word :=
  boxGet box (m ++ 3#2) ++ boxGet box (m ++ 2#2) ++ boxGet box (m ++ 1#2) ++ boxGet box (m ++ 0#2)

/-- `KEYBOX_WIN[m]` as the host reads it (10_state.md R31). -/
def State.keyboxWin (s : State) (m : BitVec 6) : Word := if s.kbValid && !s.busy then keyboxWord s.keybox m else 0

/-- `Body_KEYBOX_BUILD` has no output (42_keybox.md R152). -/
def bodyKeyboxBuild (_ : State) (_ : List Byte) : Except CmdError (List Byte) := .ok []

/-- What KEYBOX_BUILD writes at success (42_keybox.md R152). -/
def effectKeyboxBuild (s : State) (input : List Byte) : State :=
  { s with keybox := buildKeyBox input, kbValid := true, streamPos := 1 }

/-- KEYBOX_BUILD (42_keybox.md R152). -/
def execKeyboxBuild (s : State) : Host.Outcome State Fault Refusal := runCommand .keyboxBuild bodyKeyboxBuild effectKeyboxBuild s

end Sys2Proof.Machine
end

