-- ==== Sys2Proof/Machine/KeyUnwrap.lean ====
section
/-! DEFINITION. UNWRAP_KEY (44_key_unwrap.md R170). -/

namespace Sys2Proof.Machine

/-- `Body_UNWRAP_KEY` (44_key_unwrap.md R170): the XOR comes before the decryption (90_conflicts.md C2). -/
def bodyUnwrapKey (s : State) (input : List Byte) : Except CmdError (List Byte) :=
  match removePadding (ecbDec s.chip.cipher s.chip.coreKey (input.map (· ^^^ Config.keyXor))) with
  | .ok q => .ok (q.drop Config.unwrapSkip)
  | .error e => .error e

/-- UNWRAP_KEY (44_key_unwrap.md R170). -/
def execUnwrapKey (s : State) : Host.Outcome State Fault Refusal := runCommand .unwrapKey bodyUnwrapKey noEffect s

end Sys2Proof.Machine
end

