-- ==== Sys2Proof/Machine/Metadata.lean ====
section
/-! DEFINITION. META_UNMASK and META_DECRYPT (43_metadata.md R160, R161). -/

namespace Sys2Proof.Machine

/-- `Body_META_UNMASK` (43_metadata.md R160). -/
def bodyMetaUnmask (_ : State) (input : List Byte) : Except CmdError (List Byte) :=
  .ok ((input.drop Config.metaSkip).map (· ^^^ Config.metaXor))

/-- `Body_META_DECRYPT` (43_metadata.md R161). -/
def bodyMetaDecrypt (s : State) (input : List Byte) : Except CmdError (List Byte) :=
  removePadding (ecbDec s.chip.cipher s.chip.metaKey input)

/-- META_UNMASK (43_metadata.md R160). -/
def execMetaUnmask (s : State) : Host.Outcome State Fault Refusal := runCommand .metaUnmask bodyMetaUnmask noEffect s

/-- META_DECRYPT (43_metadata.md R161). -/
def execMetaDecrypt (s : State) : Host.Outcome State Fault Refusal := runCommand .metaDecrypt bodyMetaDecrypt noEffect s

end Sys2Proof.Machine
end

