-- ==== Sys2Proof/Machine/StreamDecipher.lean ====
section
/-! DEFINITION. The position-indexed keystream and STREAM_DECIPHER (45_stream_decipher.md R180, R181). -/

namespace Sys2Proof.Machine

/-- `KS(box, i)` (45_stream_decipher.md R180). -/
def keystream (box : KeyBox) (i : Nat) : Byte :=
  let j := BitVec.ofNat 8 i
  let a := boxGet box j
  let b := boxGet box (a + j)
  boxGet box (a + b)

/-- The bytes of a chunk whose first byte has stream position `p` (45_stream_decipher.md R181); positions wrap at `2^32`. -/
def decipher (box : KeyBox) (p : Word) : List Byte → List Byte
  | [] => []
  | x :: rest => (x ^^^ keystream box p.toNat) :: decipher box (p + 1) rest

/-- `Body_STREAM_DECIPHER`, its output (45_stream_decipher.md R181). -/
def bodyStreamDecipher (s : State) (input : List Byte) : Except CmdError (List Byte) :=
  .ok (decipher s.keybox s.streamPos input)

/-- What STREAM_DECIPHER writes at success (45_stream_decipher.md R181). -/
def effectStreamDecipher (s : State) (input : List Byte) : State :=
  { s with streamPos := s.streamPos + BitVec.ofNat 32 input.length }

/-- STREAM_DECIPHER (45_stream_decipher.md R181). -/
def execStreamDecipher (s : State) : Host.Outcome State Fault Refusal :=
  runCommand .streamDecipher bodyStreamDecipher effectStreamDecipher s

end Sys2Proof.Machine
end

