-- ==== Sys2Proof/Machine/Dispatch.lean ====
section
/-! DEFINITION. The body of `Execute()` for each legal command (40_control.md R102, 30_encoding.md R72). -/

namespace Sys2Proof.Machine

def exec (i : Instr) (s : State) : Host.Outcome State Fault Refusal :=
  match i with
  | .nop => Sys2Proof.Machine.execNop s
  | .ecbDecryptCore => Sys2Proof.Machine.execEcbDecryptCore s
  | .ecbDecryptMeta => Sys2Proof.Machine.execEcbDecryptMeta s
  | .unpad => Sys2Proof.Machine.execUnpad s
  | .keyboxBuild => Sys2Proof.Machine.execKeyboxBuild s
  | .metaUnmask => Sys2Proof.Machine.execMetaUnmask s
  | .metaDecrypt => Sys2Proof.Machine.execMetaDecrypt s
  | .unwrapKey => Sys2Proof.Machine.execUnwrapKey s
  | .streamDecipher => Sys2Proof.Machine.execStreamDecipher s

end Sys2Proof.Machine
end

