-- ==== Sys2Proof/Machine/Flags.lean ====
section
/-! DEFINITION. The engine's flags as the host sees them: the STATUS and CTRL words (10_state.md R23, R24) and the IRQ output
(60_exceptions.md R210). The engine computes no condition codes (10_state.md section 4). -/

namespace Sys2Proof.Machine

/-- One flag as a word with the flag at bit `k`. -/
def flagAt (k : Nat) (b : Bool) : Word := if b then 1 <<< k else 0

/-- The STATUS word (10_state.md R24); bits 31:4 are 0. -/
def State.statusWord (s : State) : Word :=
  flagAt 0 s.busy ||| flagAt 1 s.done ||| flagAt 2 s.err ||| flagAt 3 s.kbValid

/-- The CTRL word as it reads (10_state.md R23): START and SRST read 0. -/
def State.ctrlWord (s : State) : Word := flagAt 2 s.irqEn

/-- The START bit of a value written to CTRL (10_state.md R23). -/
def ctrlStart (v : Word) : Bool := v.getLsbD 0

/-- The SRST bit of a value written to CTRL (10_state.md R23). -/
def ctrlSrst (v : Word) : Bool := v.getLsbD 1

/-- The IRQ_EN bit of a value written to CTRL (10_state.md R23). -/
def ctrlIrqEn (v : Word) : Bool := v.getLsbD 2

/-- The IRQ output (60_exceptions.md R210). -/
def State.irq (s : State) : Bool := s.irqEn && s.done

/-- A CTRL write with SRST = 0 updates IRQ_EN (10_state.md R23). -/
def State.setIrqEn (s : State) (b : Bool) : State := { s with irqEn := b }

end Sys2Proof.Machine
end

