-- ==== Sys2Proof/Machine/Reset.lean ====
section
/-! DEFINITION. Reset during a run: power-on reset and soft reset (70_reset_and_hazards.md R240 to R243). -/

namespace Sys2Proof.Machine

/-- Every register and field at its reset value (70_reset_and_hazards.md R240); KEYBOX RAM becomes unspecified
(70_reset_and_hazards.md R241, assumption 4); data memory, the host and the platform are not part of the engine (R243). -/
def State.resetRegisters (s : State) : State :=
  { s with
    irqEn := false, busy := false, done := false, err := false, kbValid := false,
    cmd := 0, src := 0, dst := 0, len := 0, outLen := 0, streamPos := 1, errCode := 0, errInfo := 0,
    keybox := s.freeKeybox }

/-- The addresses of the running command's output window (70_reset_and_hazards.md R242): those of `[DST, DST + W_out)` that exist. -/
def State.abortWindow (s : State) : List Nat :=
  match s.running with
  | some i => List.range' s.dst.toNat (min (outSize i s) (addressSpace - s.dst.toNat))
  | none => []

/-- Abort the running command, if any: its output window holds unspecified bytes (70_reset_and_hazards.md R242, assumption 5). -/
def State.abort (s : State) : State := s.dmaWrite s.dst.toNat (s.abortWindow.map s.freeAborted)

/-- A reset of the engine, whether or not a command is in progress (70_reset_and_hazards.md R241, R242). -/
def State.resetEngine (s : State) : State := s.abort.resetRegisters

end Sys2Proof.Machine
end

