-- ==== Sys2Proof/Machine/HostBus.lean ====
section
/-! DEFINITION. What the host does to the machine: its register accesses (10_state.md section 2, 20_memory.md R60, 40_control.md R101),
its data-memory accesses (20_memory.md R64), its cache maintenance (20_memory.md R62, R63) and its waits (30_encoding.md R76). -/

namespace Sys2Proof.Machine

/-! ### Registers -/

/-- The value of the register at an aligned offset (10_state.md section 2, R22 to R34); reserved offsets read 0 (R37). -/
def State.readRegister (s : State) (offset : BitVec 12) : Word :=
  if offset = 0x000 then Config.idValue
  else if offset = 0x004 then s.ctrlWord
  else if offset = 0x008 then s.statusWord
  else if offset = 0x00C then s.cmd
  else if offset = 0x010 then s.src
  else if offset = 0x014 then s.dst
  else if offset = 0x018 then s.len
  else if offset = 0x01C then s.outLen
  else if offset = 0x020 then s.streamPos
  else if offset = 0x024 then s.errCode.setWidth 32
  else if offset = 0x028 then s.errInfo
  else if 0x100 ≤ offset.toNat ∧ offset.toNat < 0x200 then s.keyboxWin (offset.extractLsb' 2 6)
  else 0

/-- A write of CTRL (10_state.md R23): SRST wins; otherwise IRQ_EN is updated, then START is acted on (40_control.md R100). -/
def State.writeCtrl (s : State) (v : Word) : State :=
  if ctrlSrst v then s.resetEngine
  else if ctrlStart v && !s.busy then (s.setIrqEn (ctrlIrqEn v)).acceptStart
  else s.setIrqEn (ctrlIrqEn v)

/-- An operand register is written, unless BUSY (40_control.md R101). -/
def State.whenIdle (s : State) (t : State) : State := if s.busy then s else t

/-- A write of the register at an aligned offset (10_state.md section 2); read-only and reserved offsets ignore it. -/
def State.writeRegister (s : State) (offset : BitVec 12) (v : Word) : State :=
  if offset = 0x004 then s.writeCtrl v
  else if offset = 0x008 then s.acknowledge v
  else if offset = 0x00C then s.whenIdle { s with cmd := v }
  else if offset = 0x010 then s.whenIdle { s with src := v }
  else if offset = 0x014 then s.whenIdle { s with dst := v }
  else if offset = 0x018 then s.whenIdle { s with len := v }
  else if offset = 0x020 then s.whenIdle { s with streamPos := v }
  else s

/-- The register block accepts naturally aligned 32-bit accesses only (20_memory.md R60). -/
def accessAccepted (offset : BitVec 12) (size : AccessSize) : Bool := size == .word && offset.toNat % 4 == 0

/-- The bus's answer to a register read (20_memory.md R60). -/
def State.registerAnswer (s : State) (offset : BitVec 12) (size : AccessSize) : HostAnswer :=
  if accessAccepted offset size then .word (s.readRegister offset) else .busError

/-- A register write and the bus's answer to it (20_memory.md R60). -/
def State.hostRegWrite (s : State) (offset : BitVec 12) (size : AccessSize) (v : Word) : State :=
  if accessAccepted offset size then { s.writeRegister offset v with answer := .accepted } else { s with answer := .busError }

/-- The read of a POLL finds what it waits for (30_encoding.md R76). -/
def State.pollMet (s : State) (offset : BitVec 12) (mask value : Word) : Bool :=
  accessAccepted offset .word && s.readRegister offset &&& mask == value

/-! ### Data memory -/

/-- The host reads a byte (20_memory.md R64, R61): a race in a running output window; a byte access to the register block gets a bus
error (20_memory.md R60); a stale copy gives any value (93_implementation_defined.md U15). DESIGN CHOICE (assumption 19): at an
address of the register block or of a device that is also in the running output window, the race comes first. -/
def State.hostMemRead (s : State) (a : Nat) : Host.Outcome State Fault Refusal :=
  if s.runningOutput a then .fault .hostRace
  else if s.chip.ownBlock a then .next { s with answer := .busError }
  else if s.chip.deviceAt a then .refused .deviceAccess
  else .next { s with answer := .byte (if (s.mark a).outdated then s.freeStale a else s.mem.read a) }

/-- The host writes a byte (20_memory.md R64): a race in a running window. The host's copy is dirty until it is written back. DESIGN
CHOICE (assumption 19): at an address of the register block or of a device that is also in a running window, the race comes first. -/
def State.hostMemWrite (s : State) (a : Nat) (b : Byte) : Host.Outcome State Fault Refusal :=
  if s.runningInput a || s.runningOutput a then .fault .hostRace
  else if s.chip.ownBlock a then .next { s with answer := .busError }
  else if s.chip.deviceAt a then .refused .deviceAccess
  else .next { s.setMark a .dirty with mem := s.mem.write a b, answer := .accepted }

/-! ### Cache maintenance (assumption 7) -/

/-- Write one byte of the caches back; where the engine had written it too, memory holds either side's byte. -/
def State.cleanByte (s : State) (a : Nat) : State :=
  { s.setMark a (s.mark a).afterClean with mem := if s.mark a = .clashed then s.mem.write a (s.freeOutput a) else s.mem }

/-- Drop one byte of the caches; where it was not written back, memory holds either side's byte. -/
def State.invalidateByte (s : State) (a : Nat) : State :=
  { s.setMark a .synced with mem := if (s.mark a).unflushed then s.mem.write a (s.freeOutput a) else s.mem }

/-- Maintenance over a range. A byte of a running window that is not synced would reach memory under the command: a race. -/
def State.maintain (s : State) (op : State → Nat → State) (a n : Nat) : Host.Outcome State Fault Refusal :=
  if (List.range' a n).any fun x => (s.runningInput x || s.runningOutput x) && s.mark x != .synced then .fault .hostRace
  else .next { (List.range' a n).foldl op s with answer := .accepted }

/-! ### The host's step -/

/-- The state once the host's first access is done. -/
def State.popHost (s : State) : State := { s with host := s.host.tail }

/-- What the host's access does. POLL and the wait for IRQ stay first in `host` until they are met: only the engine's completion
ends a wait (70_reset_and_hazards.md R257). -/
def hostAccess (op : HostOp) (s : State) : Host.Outcome State Fault Refusal :=
  match op with
  | .regRead offset size => .next { s.popHost with answer := s.registerAnswer offset size }
  | .regWrite offset size v => .next (s.popHost.hostRegWrite offset size v)
  | .poll offset mask value =>
    if s.pollMet offset mask value then .next { s.popHost with answer := s.registerAnswer offset .word }
    else .next { s with answer := s.registerAnswer offset .word }
  | .waitIrq => if s.irq then .next s.popHost else .next s
  | .memRead addr => s.popHost.hostMemRead addr.toNat
  | .memWrite addr b => s.popHost.hostMemWrite addr.toNat b
  | .cacheClean addr n => s.popHost.maintain State.cleanByte addr.toNat n
  | .cacheInvalidate addr n => s.popHost.maintain State.invalidateByte addr.toNat n
  | .software => .next s.popHost
  | .powerOnReset => .next s.popHost.resetEngine

/-- The host's turn: its next access, or nothing when it has none. -/
def hostStep (s : State) : Host.Outcome State Fault Refusal :=
  match s.host with
  | [] => .next s
  | op :: _ => hostAccess op s

end Sys2Proof.Machine
end

