-- ==== Sys2Proof/Machine/Engine.lean ====
section
/-! DEFINITION. The engine's turn, and whose turn it is (00_scope.md R4, 40_control.md R109, 60_exceptions.md R212). -/

namespace Sys2Proof.Machine

/-- The engine's turn (40_control.md R102): the command in CMD, decoded now (30_encoding.md R70), is executed; a word that is no
command ends with `ERR_ILLEGAL_CMD` (30_encoding.md R74, the 1st check of 60_exceptions.md R201). An idle engine does nothing. -/
def engineStep (s : State) : Host.Outcome State Fault Refusal :=
  if s.busy then
    match decode s.cmd with
    | .ok i => exec i s
    | .error _ => .next (s.raise .illegalCmd)
  else .next s

/-- Who moves: the first of `turns`; when it is empty a busy engine, else the host (assumption 1). -/
def State.mover (s : State) : Agent :=
  match s.turns with
  | a :: _ => a
  | [] => if s.busy then .engine else .host

/-- The bookkeeping of a step: one turn is used and the free values of the next step are fresh ones (assumptions 1, 16). -/
def State.tick (s : State) : State := { s with turns := s.turns.tail, draws := s.draws + 1 }

/-- One step of the machine: the agent that moves makes its step. -/
def machineStep (s : State) : Host.Outcome State Fault Refusal :=
  match s.mover with
  | .host => hostStep s.tick
  | .engine => engineStep s.tick

/-- The host has written `w` to CMD and its START has been accepted (40_control.md R100), and the engine moves next. -/
def State.startWord (s : State) (w : Word) : State :=
  { ({ s with cmd := w }).acceptStart with turns := .engine :: s.turns }

end Sys2Proof.Machine
end

