-- ==== Sys2Proof/Machine/Step.lean ====
section
/-! DEFINITION. One step of the machine, and the state in which the next step runs a given command word. -/

namespace Sys2Proof.Machine

/-- One step: one host access, or one whole command (10_state.md R35, 60_exceptions.md R212). -/
def step (s : State) : Host.Outcome State Fault Refusal := machineStep s

/-- `s` with the command word `w` where the engine finds its next command: in CMD, with START accepted and the engine's turn next
(10_state.md R21, R35; assumption 14). Bits above `nbits` are 0. -/
def State.withFetchWord (s : State) (nbits w : Nat) : State := s.startWord (BitVec.ofNat 32 (w % 2 ^ nbits))

end Sys2Proof.Machine
end

