-- ==== Sys2Proof/Machine/HostProgram.lean ====
section
/-! DEFINITION. The host program notation of 30_encoding.md R76 and R77 as lists of host accesses. -/

namespace Sys2Proof.Machine

/-- The registers a host program names (10_state.md section 2). -/
inductive RegName where
  | id | ctrl | status | cmd | src | dst | len | outLen | streamPos | errCode | errInfo
  | keyboxWin (m : BitVec 6)
  deriving DecidableEq, Repr

/-- The offset of a register (10_state.md section 2). -/
def RegName.offset : RegName → BitVec 12
  | .id => 0x000
  | .ctrl => 0x004
  | .status => 0x008
  | .cmd => 0x00C
  | .src => 0x010
  | .dst => 0x014
  | .len => 0x018
  | .outLen => 0x01C
  | .streamPos => 0x020
  | .errCode => 0x024
  | .errInfo => 0x028
  | .keyboxWin m => 0x1#4 ++ m ++ 0#2

/-- `W <REG>, <value>` -/
def lineW (r : RegName) (v : Word) : List HostOp := [.regWrite r.offset .word v]

/-- `R <REG>` -/
def lineR (r : RegName) : List HostOp := [.regRead r.offset .word]

/-- `POLL <REG>.<FIELD> == <v>`, the field given by its mask and its value in place. -/
def linePoll (r : RegName) (mask value : Word) : List HostOp := [.poll r.offset mask value]

/-- `MEM <addr>: <bytes>`. DESIGN CHOICE (assumption 20): bytes that run past address 0xFFFFFFFF go on at address 0. -/
def lineMem (a : Word) : List Byte → List HostOp
  | [] => []
  | b :: rest => .memWrite a b :: lineMem (a + 1) rest

/-- `HOST <step>` -/
def lineHost : List HostOp := [.software]

/-- An operand write of ISSUE; an omitted operand omits its write (30_encoding.md R77). -/
def lineOperand (r : RegName) : Option Word → List HostOp
  | none => []
  | some v => lineW r v

/-- The writes of ISSUE and ISSUE.I, `ctrl` being the value written to CTRL (30_encoding.md R77). -/
def issueWith (ctrl : Word) (i : Instr) (src dst len : Option Word) : List HostOp :=
  lineOperand .src src ++ lineOperand .dst dst ++ lineOperand .len len ++ lineW .cmd (encode i) ++ lineW .ctrl ctrl

/-- `ISSUE` -/
def lineIssue (i : Instr) (src dst len : Option Word) : List HostOp := issueWith 0x00000001 i src dst len

/-- `ISSUE.I` -/
def lineIssueIrq (i : Instr) (src dst len : Option Word) : List HostOp := issueWith 0x00000005 i src dst len

/-- `WAIT` -/
def lineWait : List HostOp := linePoll .status 0x00000001 0x00000000

/-- `ACK` -/
def lineAck : List HostOp := lineW .status 0x00000006

/-- `SETPOS <p>` -/
def lineSetPos (p : Word) : List HostOp := lineW .streamPos p

/-- `SRST` -/
def lineSrst : List HostOp := lineW .ctrl 0x00000002

end Sys2Proof.Machine
end

