-- ==== Sys2Proof/Safety.lean ====
section
/-! DEFINITION. What a good state and a good run are, in the terms the statements use: the invariant of every state, the conditions
under which a command executes normally, and what a completed and a failed command leave. -/

namespace Sys2Proof.Machine

/-- Each value 0..255 appears exactly once (42_keybox.md R151). -/
def KeyBox.IsPermutation (box : KeyBox) : Prop := ∀ v : Byte, ∃! i : Byte, boxGet box i = v

/-- What holds of every state the machine reaches: memory and cache marks in canonical form (assumption 2); the completion fields are
clear while BUSY (10_state.md R35); ERR only with an error code (R24); codes 0 to 8 only (60_exceptions.md R200); OUT_LEN is 0 after
an error (R202) and ERR_INFO is 0 without one (10_state.md R34); a valid key box is a permutation (42_keybox.md R151). -/
structure State.Inv (s : State) : Prop where
  mem_wf : s.mem.wf
  cache_wf : s.cache.wf
  busy_clear : s.busy = true → s.done = false ∧ s.err = false ∧ s.outLen = 0 ∧ s.errCode = 0 ∧ s.errInfo = 0
  err_code : s.err = true → s.errCode ≠ 0
  code_le : s.errCode.toNat ≤ 8
  code_outLen : s.errCode ≠ 0 → s.outLen = 0
  code_info : s.errCode = 0 → s.errInfo = 0
  box_perm : s.kbValid = true → KeyBox.IsPermutation s.keybox

/-- An input window of `n` bytes at SRC and an output window of `m` bytes at DST pass every window check of 60_exceptions.md R201,
over idempotent memory (20_memory.md R58): in range, in place or disjoint, and admitted. -/
def State.WindowsGood (s : State) (n m : Nat) : Prop :=
  s.src.toNat + n ≤ 2 ^ 32 ∧ s.dst.toNat + m ≤ 2 ^ 32 ∧
  (n = 0 ∨ m = 0 ∨ s.src = s.dst ∨ s.src.toNat + n ≤ s.dst.toNat ∨ s.dst.toNat + m ≤ s.src.toNat) ∧
  (∀ k, k < n → s.chip.admits .read (s.src.toNat + k) = true ∧ s.chip.plain (s.src.toNat + k) = true) ∧
  (∀ k, k < m → s.chip.admits .write (s.dst.toNat + k) = true ∧ s.chip.plain (s.dst.toNat + k) = true)

/-- The host wrote its caches back over both windows (20_memory.md R62); always so when DMA_COHERENT is true. -/
def State.Maintained (s : State) (n m : Nat) : Prop :=
  (∀ k, k < n → (s.mark (s.src.toNat + k)).unflushed = false) ∧ (∀ k, k < m → (s.mark (s.dst.toNat + k)).unflushed = false)

/-- The bytes of data memory in the input window (40_control.md R105). -/
def State.memInput (s : State) : List Byte := (List.range s.len.toNat).map fun k => s.mem.read (s.src.toNat + k)

/-- From `s` to `t` exactly the bytes `out` were written at address `d` (20_memory.md R57). -/
def WritesExactly (s t : State) (d : Nat) (out : List Byte) : Prop :=
  ∀ a, t.mem.read a = if d ≤ a ∧ a < d + out.length then out.getD (a - d) 0 else s.mem.read a

/-- From `s` to `t` the engine wrote the `n` bytes at `d`: on a platform that is not coherent the host's copies of them became stale,
or clashed where the host had not written them back, and no other cache mark changed (20_memory.md R63; the marks are the model's own,
assumption 7). -/
def MarksWritten (s t : State) (d n : Nat) : Prop :=
  (s.chip.dmaCoherent = true → t.cache = s.cache) ∧
  ∀ a, t.mark a = if d ≤ a ∧ a < d + n ∧ s.chip.dmaCoherent = false then (s.mark a).afterEngineWrite else s.mark a

/-- `t` is `s` after a successful completion with output `out` (40_control.md R107, 20_memory.md R57): the completion fields, the
output bytes and the cache marks of their copies changed, and nothing else. -/
def CompletedWith (s t : State) (out : List Byte) : Prop :=
  t = { s with outLen := BitVec.ofNat 32 out.length, errCode := 0, errInfo := 0, err := false, busy := false, done := true,
               mem := t.mem, cache := t.cache } ∧
  WritesExactly s t s.dst.toNat out ∧ MarksWritten s t s.dst.toNat out.length

/-- `s` after an error completion with the given code and information (60_exceptions.md R202): nothing else changed. -/
def failedWith (s : State) (code : Byte) (info : Word) : State :=
  { s with errCode := code, errInfo := info, outLen := 0, err := true, busy := false, done := true }

/-- The engine runs its command in the next step (40_control.md R102). -/
def State.engineMoves (s : State) : Prop := s.mover = .engine ∧ s.busy = true

/-- The host makes the access `op` in the next step (20_memory.md R61). -/
def State.hostDoes (s : State) (op : HostOp) : Prop := s.mover = .host ∧ s.host.head? = some op

/-- `s` with the host's access taken off its list: the model's own bookkeeping of a step (assumptions 1, 16), nothing of the engine's. -/
def State.afterAccess (s : State) : State := { s with host := s.host.tail, turns := s.turns.tail, draws := s.draws + 1 }

/-- A byte of `[a, a + n)` lies in a window of the running command and the host's copy of it is not in step (assumption 11). -/
def State.MaintenanceRaces (s : State) (a n : Nat) : Prop :=
  ∃ k, k < n ∧ (s.runningInput (a + k) = true ∨ s.runningOutput (a + k) = true) ∧ s.mark (a + k) ≠ .synced

/-- The operands are wrong in a way that 60_exceptions.md R201 checks before the windows (2nd to 4th check). -/
def OperandsRefused (i : Instr) (s : State) : Prop :=
  (i = .streamDecipher ∧ s.kbValid = false) ∨
    ((i = .ecbDecryptCore ∨ i = .ecbDecryptMeta ∨ i = .metaDecrypt ∨ i = .unwrapKey) ∧ s.len.toNat % 16 ≠ 0) ∨
    (i = .keyboxBuild ∧ s.len = 0)

/-- `InRange` of 40_control.md R104 for an input window of `n` and an output window of `m` bytes. -/
def State.InRange (s : State) (n m : Nat) : Prop := s.src.toNat + n ≤ 2 ^ 32 ∧ s.dst.toNat + m ≤ 2 ^ 32

/-- `Overlap` of 40_control.md R104 for an input window of `n` and an output window of `m` bytes. -/
def State.PartialOverlap (s : State) (n m : Nat) : Prop :=
  n > 0 ∧ m > 0 ∧ s.src ≠ s.dst ∧ s.src.toNat < s.dst.toNat + m ∧ s.dst.toNat < s.src.toNat + n

/-- `a` is the least address of `[base, base + n)` that the platform map does not admit (40_control.md R104). -/
def LeastBad (c : Chip) (k : AccessKind) (base n a : Nat) : Prop :=
  base ≤ a ∧ a < base + n ∧ c.admits k a = false ∧ ∀ b, base ≤ b → b < a → c.admits k b = true

/-- STREAM_DECIPHER on consecutive chunks of the given lengths from SRC to DST, the host moving SRC and DST on after each
(45_stream_decipher.md R182). -/
def decipherChunks : List Nat → State → Host.Outcome State Fault Refusal
  | [], s => .next s
  | n :: rest, s =>
    match exec .streamDecipher { s with len := BitVec.ofNat 32 n } with
    | .next t => decipherChunks rest { t with src := t.src + BitVec.ofNat 32 n, dst := t.dst + BitVec.ofNat 32 n }
    | .fault f => .fault f
    | .refused r => .refused r

end Sys2Proof.Machine
end

