-- ==== Sys2Proof/Certificates/Slice0/Obligations.lean ====
section
/-! DEFINITION. The statements for the provers. Each docstring names the rules of spec/ a statement formalises. -/

open Sys2Proof Sys2Proof.Machine

/-! ### Encoding (30_encoding.md) -/

/-- Each word of 30_encoding.md R75, written bit by bit as R70 lays it out (RSVD, KEYSEL, OP), decodes to its command. -/
def Obligations.DecodesWrittenWords : Prop :=
  decode (0b000000000000000000000000000#27 ++ 0b0#1 ++ 0b0000#4) = .ok .nop ∧
  decode (0b000000000000000000000000000#27 ++ 0b0#1 ++ 0b0001#4) = .ok .ecbDecryptCore ∧
  decode (0b000000000000000000000000000#27 ++ 0b1#1 ++ 0b0001#4) = .ok .ecbDecryptMeta ∧
  decode (0b000000000000000000000000000#27 ++ 0b0#1 ++ 0b0010#4) = .ok .unpad ∧
  decode (0b000000000000000000000000000#27 ++ 0b0#1 ++ 0b0011#4) = .ok .keyboxBuild ∧
  decode (0b000000000000000000000000000#27 ++ 0b0#1 ++ 0b0100#4) = .ok .metaUnmask ∧
  decode (0b000000000000000000000000000#27 ++ 0b0#1 ++ 0b0101#4) = .ok .metaDecrypt ∧
  decode (0b000000000000000000000000000#27 ++ 0b0#1 ++ 0b0110#4) = .ok .unwrapKey ∧
  decode (0b000000000000000000000000000#27 ++ 0b0#1 ++ 0b0111#4) = .ok .streamDecipher

/-- 30_encoding.md R75: the nine words of the table are commands and no other of the `2^32` words is. -/
def Obligations.LegalWordsAreTheNine : Prop :=
  ∀ (w : Word) (i : Instr), decode w = .ok i ↔
    (w = 0x00000000 ∧ i = .nop) ∨ (w = 0x00000001 ∧ i = .ecbDecryptCore) ∨ (w = 0x00000011 ∧ i = .ecbDecryptMeta) ∨
    (w = 0x00000002 ∧ i = .unpad) ∨ (w = 0x00000003 ∧ i = .keyboxBuild) ∨ (w = 0x00000004 ∧ i = .metaUnmask) ∨
    (w = 0x00000005 ∧ i = .metaDecrypt) ∨ (w = 0x00000006 ∧ i = .unwrapKey) ∨ (w = 0x00000007 ∧ i = .streamDecipher)

/-- Decoding and encoding agree in both directions, and a word is its three fields (30_encoding.md R70, R72, R75). -/
def Obligations.DecodeAndEncodeAgree : Prop :=
  (∀ i : Instr, i.WellFormed → decode (encode i) = .ok i) ∧
  (∀ (w : Word) (i : Instr), decode w = .ok i → encode i = w) ∧
  (∀ w : Word, packFields (fieldsOf w) = w) ∧ (∀ f : CommandFields, fieldsOf (packFields f) = f)

/-- 30_encoding.md R74: a word is illegal exactly when OP is 8 to 15, RSVD is not 0, or KEYSEL is 1 with OP not 1; such a command
completes at once with ERR_ILLEGAL_CMD (code 1) and changes nothing but the completion fields. -/
def Obligations.IllegalWordsEndWithError : Prop :=
  (∀ w : Word, (∀ i, decode w ≠ .ok i) ↔
    (w.toNat % 16 ≥ 8 ∨ w.toNat / 32 ≠ 0 ∨ (w.toNat / 16 % 2 = 1 ∧ w.toNat % 16 ≠ 1))) ∧
  (∀ s : State, s.engineMoves → (∀ i, decode s.cmd ≠ .ok i) → step s = .next (failedWith s.tick 1 0))

/-! ### The step -/

/-- When the engine moves and CMD decodes to a well-formed command, the step is that command on the ticked state; when the host
moves, it is the host's next access (40_control.md R102, 60_exceptions.md R212). -/
def Obligations.StepRunsTheDecodedCommand : Prop :=
  (∀ (s : State) (i : Instr), s.engineMoves → i.WellFormed → decode s.cmd = .ok i → step s = exec i s.tick) ∧
  (∀ (s : State) (op : HostOp), s.hostDoes op → step s = hostAccess op s.tick) ∧
  (∀ s : State, s.busy = false → s.host = [] → step s = .next s.tick)

/-- `withFetchWord` is the accepted START of the word (40_control.md R100), and the very next step runs it. -/
def Obligations.FetchWordRunsNext : Prop :=
  ∀ (s : State) (w : Word) (i : Instr), decode w = .ok i →
    step (s.withFetchWord 32 w.toNat) = exec i { ({ s with cmd := w }).acceptStart with draws := s.draws + 1 }

/-- The host's accesses are made one at a time in order (20_memory.md R61): a step takes off at most the first, and only when the
host moves. -/
def Obligations.HostAccessesInOrder : Prop :=
  ∀ s t : State, step s = .next t →
    (s.mover = .host → t.host = s.host ∨ t.host = s.host.tail) ∧ (s.mover = .engine → t.host = s.host)

/-! ### Commands: results and completion -/

/-- 40_control.md R108: NOP completes in every state, whatever SRC, DST and LEN hold. -/
def Obligations.NopCompletes : Prop :=
  decode 0x00000000 = .ok .nop ∧
  (∀ w : Word, w.toNat % 16 = 0 → w ≠ 0 → ∀ i, decode w ≠ .ok i) ∧
  ∀ s : State, ∃ t, exec .nop s = .next t ∧
    t = { s with busy := false, done := true, err := false, outLen := 0, errCode := 0, errInfo := 0 } ∧
    t.statusWord = if s.kbValid then 0x0000000A else 0x00000002

/-- ECB_DECRYPT on good windows completes with the decryption of the input window under its key (41_block_cipher.md R130,
30_encoding.md R73): CORE_KEY with KEYSEL 0, META_KEY with KEYSEL 1, whatever the chip's BLOCK_DECRYPT (00_scope.md R6). -/
def Obligations.EcbDecryptResult : Prop :=
  ∀ s : State, s.len.toNat % 16 = 0 → s.WindowsGood s.len.toNat s.len.toNat → s.Maintained s.len.toNat s.len.toNat →
    (∃ t, exec .ecbDecryptCore s = .next t ∧ CompletedWith s t (ecbDec s.chip.cipher s.chip.coreKey s.memInput) ∧ t.outLen = s.len) ∧
    (∃ t, exec .ecbDecryptMeta s = .next t ∧ CompletedWith s t (ecbDec s.chip.cipher s.chip.metaKey s.memInput) ∧ t.outLen = s.len)

/-- UNPAD on good windows (41_block_cipher.md R129, R131): with `n` the last byte, `1 ≤ n ≤ LEN` completes with the first `LEN - n`
bytes; an empty window, `n = 0` and `n > LEN` end with ERR_PADDING. -/
def Obligations.UnpadResult : Prop :=
  ∀ s : State, s.WindowsGood s.len.toNat s.len.toNat → s.Maintained s.len.toNat s.len.toNat →
    (s.len = 0 → exec .unpad s = .next (failedWith s 8 0xFFFFFFFF)) ∧
    (∀ n : Byte, s.memInput.getLast? = some n → (n = 0 ∨ s.len.toNat < n.toNat) →
      exec .unpad s = .next (failedWith s 8 (n.setWidth 32))) ∧
    (∀ n : Byte, s.memInput.getLast? = some n → n ≠ 0 → n.toNat ≤ s.len.toNat →
      ∃ t, exec .unpad s = .next t ∧ CompletedWith s t (s.memInput.take (s.len.toNat - n.toNat)) ∧
        t.outLen.toNat = s.len.toNat - n.toNat)

/-- KEYBOX_BUILD on a good, non-empty input window (42_keybox.md R152): the key box, KB_VALID, STREAM_POS = 1, OUT_LEN = 0, and no
byte of memory written. -/
def Obligations.KeyboxBuildResult : Prop :=
  ∀ s : State, s.len ≠ 0 → s.WindowsGood s.len.toNat 0 → s.Maintained s.len.toNat 0 →
    exec .keyboxBuild s = .next { s with
      keybox := buildKeyBox s.memInput, kbValid := true, streamPos := 1,
      outLen := 0, errCode := 0, errInfo := 0, err := false, busy := false, done := true }

/-- META_UNMASK on good windows (43_metadata.md R160): output byte `k` is input byte `22 + k` XOR 0x63. -/
def Obligations.MetaUnmaskResult : Prop :=
  ∀ s : State, s.WindowsGood s.len.toNat (s.len.toNat - 22) → s.Maintained s.len.toNat (s.len.toNat - 22) →
    ∃ t out, exec .metaUnmask s = .next t ∧ CompletedWith s t out ∧ out.length = s.len.toNat - 22 ∧
      t.outLen.toNat = s.len.toNat - 22 ∧
      ∀ k, k < s.len.toNat - 22 → out.getD k 0 = s.mem.read (s.src.toNat + (22 + k)) ^^^ 0x63

/-- META_DECRYPT on good windows of whole blocks (43_metadata.md R161): the input decrypted under META_KEY, then unpadded; ERR_PADDING
as RemovePadding (41_block_cipher.md R129) says. -/
def Obligations.MetaDecryptResult : Prop :=
  ∀ (s : State) (p : List Byte), s.len.toNat % 16 = 0 → s.WindowsGood s.len.toNat s.len.toNat →
    s.Maintained s.len.toNat s.len.toNat → p = ecbDec s.chip.cipher s.chip.metaKey s.memInput →
    (s.len = 0 → exec .metaDecrypt s = .next (failedWith s 8 0xFFFFFFFF)) ∧
    (∀ n : Byte, p.getLast? = some n → (n = 0 ∨ s.len.toNat < n.toNat) →
      exec .metaDecrypt s = .next (failedWith s 8 (n.setWidth 32))) ∧
    (∀ n : Byte, p.getLast? = some n → n ≠ 0 → n.toNat ≤ s.len.toNat →
      ∃ t, exec .metaDecrypt s = .next t ∧ CompletedWith s t (p.take (s.len.toNat - n.toNat)) ∧
        t.outLen.toNat = s.len.toNat - n.toNat)

/-- UNWRAP_KEY on good windows of whole blocks (44_key_unwrap.md R170): every byte XOR 0x64, decrypted under CORE_KEY, unpadded, and
the first 17 bytes dropped; ERR_PADDING as RemovePadding says. -/
def Obligations.UnwrapKeyResult : Prop :=
  ∀ (s : State) (p : List Byte), s.len.toNat % 16 = 0 → s.WindowsGood s.len.toNat s.len.toNat →
    s.Maintained s.len.toNat s.len.toNat → p = ecbDec s.chip.cipher s.chip.coreKey (s.memInput.map (· ^^^ 0x64)) →
    (s.len = 0 → exec .unwrapKey s = .next (failedWith s 8 0xFFFFFFFF)) ∧
    (∀ n : Byte, p.getLast? = some n → (n = 0 ∨ s.len.toNat < n.toNat) →
      exec .unwrapKey s = .next (failedWith s 8 (n.setWidth 32))) ∧
    (∀ n : Byte, p.getLast? = some n → n ≠ 0 → n.toNat ≤ s.len.toNat →
      ∃ t, exec .unwrapKey s = .next t ∧ CompletedWith s t ((p.take (s.len.toNat - n.toNat)).drop 17) ∧
        t.outLen.toNat = s.len.toNat - n.toNat - 17)

/-- STREAM_DECIPHER with a valid key box on good windows (45_stream_decipher.md R181): output byte `k` is input byte `k` XOR the
keystream at position `(STREAM_POS + k) mod 2^32`, and STREAM_POS advances by LEN modulo `2^32`. -/
def Obligations.StreamDecipherResult : Prop :=
  ∀ s : State, s.kbValid = true → s.WindowsGood s.len.toNat s.len.toNat → s.Maintained s.len.toNat s.len.toNat →
    ∃ t out, exec .streamDecipher s = .next t ∧
      CompletedWith { s with streamPos := BitVec.ofNat 32 ((s.streamPos.toNat + s.len.toNat) % 2 ^ 32) } t out ∧
      out.length = s.len.toNat ∧ t.outLen = s.len ∧
      ∀ k, k < s.len.toNat →
        out.getD k 0 = s.mem.read (s.src.toNat + k) ^^^ keystream s.keybox ((s.streamPos.toNat + k) % 2 ^ 32)

/-! ### Functions of the commands -/

/-- 41_block_cipher.md R128: each block is decrypted on its own and in order, an empty input gives an empty output, and a length that
is no multiple of 16 never gets there; it holds of every BLOCK_DECRYPT (00_scope.md R6). -/
def Obligations.EcbBlocksIndependent : Prop :=
  (∀ (cipher : Cipher) (key : Block) (c : List Byte), c.length % 16 = 0 →
    (ecbDec cipher key c).length = c.length ∧
    ∀ b, b < c.length / 16 →
      ((ecbDec cipher key c).drop (16 * b)).take 16 = (blockDecrypt cipher key (blockOf ((c.drop (16 * b)).take 16))).toList) ∧
  (∀ (cipher : Cipher) (key : Block), ecbDec cipher key [] = []) ∧
  (∀ (i : Instr) (s : State), (i = .ecbDecryptCore ∨ i = .ecbDecryptMeta ∨ i = .metaDecrypt ∨ i = .unwrapKey) →
    s.len.toNat % 16 ≠ 0 → exec i s = .next (failedWith s 3 0))

/-- 41_block_cipher.md R129: only the final byte is inspected, and only against 0 and the length. -/
def Obligations.RemovePaddingChecksFinalByteOnly : Prop :=
  removePadding [] = .error (.padding 0xFFFFFFFF) ∧
  ∀ (p : List Byte) (n : Byte),
    ((n = 0 ∨ p.length + 1 < n.toNat) → removePadding (p ++ [n]) = .error (.padding (n.setWidth 32))) ∧
    (n ≠ 0 → n.toNat ≤ p.length + 1 → removePadding (p ++ [n]) = .ok (p.take (p.length + 1 - n.toNat)))

/-- 41_block_cipher.md R122, R123: `xtime` over numbers, `mul` as the sum of the `xtime^i(a)` with `b[i] = 1`, that every byte but 0
has exactly one inverse; and that the table of `S` is the affine map of that inverse, and the table of `InvS` undoes it. -/
def Obligations.SboxTablesMatchDefinition : Prop :=
  (∀ a : Byte, (xtime a).toNat = if a.toNat < 128 then 2 * a.toNat else 2 * a.toNat % 256 ^^^ 0x1B) ∧
  (∀ a b : Byte, gfMul a b =
    (if b.getLsbD 0 then a else 0) ^^^ (if b.getLsbD 1 then xtime^[1] a else 0) ^^^ (if b.getLsbD 2 then xtime^[2] a else 0) ^^^
      (if b.getLsbD 3 then xtime^[3] a else 0) ^^^ (if b.getLsbD 4 then xtime^[4] a else 0) ^^^
      (if b.getLsbD 5 then xtime^[5] a else 0) ^^^ (if b.getLsbD 6 then xtime^[6] a else 0) ^^^
      (if b.getLsbD 7 then xtime^[7] a else 0)) ∧
  (∀ a : Byte, a ≠ 0 → ∃! b : Byte, gfMul a b = 0x01) ∧
  (∀ a : Byte, ∃ b : Byte, (if a = 0 then b = 0 else gfMul a b = 0x01) ∧
    sbox a = b ^^^ b.rotateLeft 1 ^^^ b.rotateLeft 2 ^^^ b.rotateLeft 3 ^^^ b.rotateLeft 4 ^^^ 0x63) ∧
  ∀ a : Byte, invSbox (sbox a) = a

/-- 41_block_cipher.md R125: the four inverse round transformations, cell by cell. -/
def Obligations.InverseRoundTransformations : Prop :=
  ∀ (s rk : Block) (c : Fin 4),
    (∀ r : Fin 4, cell (invShiftRows s) r (c + r) = cell s r c) ∧
    (∀ r : Fin 4, cell (invSubBytes s) r c = invSbox (cell s r c)) ∧
    (∀ r : Fin 4, cell (addRoundKey s rk) r c = cell s r c ^^^ rk[r.val + 4 * c.val]) ∧
    cell (invMixColumns s) 0 c = gfMul 0x0E (cell s 0 c) ^^^ gfMul 0x0B (cell s 1 c) ^^^ gfMul 0x0D (cell s 2 c) ^^^ gfMul 0x09 (cell s 3 c) ∧
    cell (invMixColumns s) 1 c = gfMul 0x09 (cell s 0 c) ^^^ gfMul 0x0E (cell s 1 c) ^^^ gfMul 0x0B (cell s 2 c) ^^^ gfMul 0x0D (cell s 3 c) ∧
    cell (invMixColumns s) 2 c = gfMul 0x0D (cell s 0 c) ^^^ gfMul 0x09 (cell s 1 c) ^^^ gfMul 0x0E (cell s 2 c) ^^^ gfMul 0x0B (cell s 3 c) ∧
    cell (invMixColumns s) 3 c = gfMul 0x0B (cell s 0 c) ^^^ gfMul 0x0D (cell s 1 c) ^^^ gfMul 0x09 (cell s 2 c) ^^^ gfMul 0x0E (cell s 3 c)

/-- 41_block_cipher.md R124: the words of the key schedule, the functions they are made with, the round keys made of them, and the
rule's example. -/
def Obligations.KeyScheduleRecurrence : Prop :=
  ∀ (key : Block) (w : Nat → KeyWord), (∀ i, w i = scheduleWord (keySchedule key) i) →
    (keySchedule key).length = 44 ∧
    (∀ (i j : Nat) (_ : i < 4) (_ : j < 4), (w i)[j] = key[4 * i + j]) ∧
    (∀ i, 4 ≤ i → i < 44 → i % 4 = 0 →
      w i = xorWord (w (i - 4)) (xorWord (subWord (rotWord (w (i - 1)))) #v[roundConstant (i / 4), 0, 0, 0])) ∧
    (∀ i, 4 ≤ i → i < 44 → i % 4 ≠ 0 → w i = xorWord (w (i - 4)) (w (i - 1))) ∧
    (∀ (r r' c : Nat) (_ : r ≤ 10) (_ : r' < 4) (_ : c < 4),
      (roundKey (keySchedule key) r)[r' + 4 * c] = (w (4 * r + c))[r']) ∧
    (∀ a0 a1 a2 a3 : Byte, rotWord #v[a0, a1, a2, a3] = #v[a1, a2, a3, a0]) ∧
    (∀ (t t' : KeyWord) (j : Nat) (_ : j < 4), (subWord t)[j] = sbox t[j] ∧ (xorWord t t')[j] = t[j] ^^^ t'[j]) ∧
    (List.range' 1 10).map roundConstant = [0x01, 0x02, 0x04, 0x08, 0x10, 0x20, 0x40, 0x80, 0x1B, 0x36] ∧
    roundKey (keySchedule #v[0x2B, 0x7E, 0x15, 0x16, 0x28, 0xAE, 0xD2, 0xA6, 0xAB, 0xF7, 0x15, 0x88, 0x09, 0xCF, 0x4F, 0x3C]) 1 =
      #v[0xA0, 0xFA, 0xFE, 0x17, 0x88, 0x54, 0x2C, 0xB1, 0x23, 0xA3, 0x39, 0x39, 0x2A, 0x6C, 0x76, 0x05] ∧
    roundKey (keySchedule #v[0x2B, 0x7E, 0x15, 0x16, 0x28, 0xAE, 0xD2, 0xA6, 0xAB, 0xF7, 0x15, 0x88, 0x09, 0xCF, 0x4F, 0x3C]) 10 =
      #v[0xD0, 0x14, 0xF9, 0xA8, 0xC9, 0xEE, 0x25, 0x89, 0xE1, 0x3F, 0x0C, 0xC8, 0xB6, 0x63, 0x0C, 0xA6]

/-- 41_block_cipher.md R126, R127: the default BLOCK_DECRYPT is `rk_10`, the rounds 9 down to 1, then the last round with `rk_0`: with
`s r` the state after round `r`, `s 10` the state after the first AddRoundKey; and the rule's example. -/
def Obligations.BlockDecryptSequence : Prop :=
  (∀ (key c : Block) (rk s : Nat → Block), (∀ r, r ≤ 10 → rk r = roundKey (keySchedule key) r) →
    s 10 = addRoundKey c (rk 10) →
    (∀ r, 1 ≤ r → r ≤ 9 → s r = invMixColumns (addRoundKey (invSubBytes (invShiftRows (s (r + 1)))) (rk r))) →
    blockDecrypt .aes128 key c = addRoundKey (invSubBytes (invShiftRows (s 1))) (rk 0)) ∧
  blockDecrypt .aes128 #v[0x00, 0x01, 0x02, 0x03, 0x04, 0x05, 0x06, 0x07, 0x08, 0x09, 0x0A, 0x0B, 0x0C, 0x0D, 0x0E, 0x0F]
      #v[0x69, 0xC4, 0xE0, 0xD8, 0x6A, 0x7B, 0x04, 0x30, 0xD8, 0xCD, 0xB7, 0x80, 0x70, 0xB4, 0xC5, 0x5A] =
    #v[0x00, 0x11, 0x22, 0x33, 0x44, 0x55, 0x66, 0x77, 0x88, 0x99, 0xAA, 0xBB, 0xCC, 0xDD, 0xEE, 0xFF]

/-- 42_keybox.md R150: BuildKeyBox, iteration by iteration over numbers: `box i x` is entry `x` before iteration `i`, `last i` the
accumulator, `c i` the index the iteration computes from key byte `i mod len(KM)`. -/
def Obligations.KeyBoxRecurrence : Prop :=
  ∀ (km : List Byte) (box : Nat → Nat → Nat) (last c : Nat → Nat), km ≠ [] →
    (∀ x, x < 256 → box 0 x = x) → last 0 = 0 →
    (∀ i, i < 256 → c i = (box i i + last i + (km.getD (i % km.length) 0).toNat) % 256) →
    (∀ i, i < 256 → last (i + 1) = c i) →
    (∀ i x, i < 256 → x < 256 → box (i + 1) x = if x = c i then box i i else if x = i then box i (c i) else box i x) →
    ∀ (x : Nat) (_ : x < 256), ((buildKeyBox km)[x]).toNat = box 256 x

/-- 42_keybox.md R151: the result of BuildKeyBox is always a permutation. -/
def Obligations.KeyBoxIsAlwaysPermutation : Prop := ∀ km : List Byte, KeyBox.IsPermutation (buildKeyBox km)

/-- 42_keybox.md R150: only the first 256 bytes of the key material matter. -/
def Obligations.KeyBoxReadsFirst256Bytes : Prop :=
  ∀ km km' : List Byte, 256 ≤ km.length → 256 ≤ km'.length → km.take 256 = km'.take 256 → buildKeyBox km = buildKeyBox km'

/-- 45_stream_decipher.md R180: the keystream byte, over numbers, and its dependence on the position modulo 256 only. -/
def Obligations.KeystreamByPosition : Prop :=
  ∀ (box : KeyBox) (i : Nat),
    (∀ (a b : Byte), a = box[i % 256]'(Nat.mod_lt _ (by decide)) →
      b = box[(a.toNat + i % 256) % 256]'(Nat.mod_lt _ (by decide)) →
      keystream box i = box[(a.toNat + b.toNat) % 256]'(Nat.mod_lt _ (by decide))) ∧
    keystream box i = keystream box (i % 256) ∧ keystream box (i % 2 ^ 32) = keystream box i ∧
    keystream box (256 * i) = keystream box 0

/-! ### Errors (60_exceptions.md) -/

/-- 60_exceptions.md R201: the first failing check in the rule's order is the one reported; NOP is not checked. -/
def Obligations.PrecheckReportsFirstError : Prop :=
  (∀ s : State, s.engineMoves → (∀ i, decode s.cmd ≠ .ok i) → step s = .next (failedWith s.tick 1 0)) ∧
  (∀ s : State, ∃ t, exec .nop s = .next t ∧ t.err = false) ∧
  (∀ s : State, s.kbValid = false → exec .streamDecipher s = .next (failedWith s 2 0)) ∧
  (∀ (i : Instr) (s : State), (i = .ecbDecryptCore ∨ i = .ecbDecryptMeta ∨ i = .metaDecrypt ∨ i = .unwrapKey) →
    s.len.toNat % 16 ≠ 0 → exec i s = .next (failedWith s 3 0)) ∧
  (∀ s : State, s.len = 0 → exec .keyboxBuild s = .next (failedWith s 4 0)) ∧
  (∀ (i : Instr) (s : State), i ≠ .nop → ¬ OperandsRefused i s →
    (¬ s.InRange (inSize i s) (outSize i s) → exec i s = .next (failedWith s 5 0)) ∧
    (s.InRange (inSize i s) (outSize i s) → s.PartialOverlap (inSize i s) (outSize i s) →
      exec i s = .next (failedWith s 6 0)) ∧
    (s.InRange (inSize i s) (outSize i s) → ¬ s.PartialOverlap (inSize i s) (outSize i s) →
      (∀ a, LeastBad s.chip .read s.src.toNat (inSize i s) a → exec i s = .next (failedWith s 7 (BitVec.ofNat 32 a))) ∧
      ((∀ k, k < inSize i s → s.chip.admits .read (s.src.toNat + k) = true) →
        ∀ a, LeastBad s.chip .write s.dst.toNat (outSize i s) a → exec i s = .next (failedWith s 7 (BitVec.ofNat 32 a)))))

/-- A command stops only where its windows pass every check and hold a byte of a device or of the register block, and there it always
stops, as the fault nonIdempotentWindow (20_memory.md R52, R58; the order after the checks is the model's, assumption 10). -/
def Obligations.NonIdempotentWindowFaults : Prop :=
  (∀ (i : Instr) (s : State), i ≠ .nop → ¬ OperandsRefused i s → s.InRange (inSize i s) (outSize i s) →
    ¬ s.PartialOverlap (inSize i s) (outSize i s) →
    (∀ k, k < inSize i s → s.chip.admits .read (s.src.toNat + k) = true) →
    (∀ k, k < outSize i s → s.chip.admits .write (s.dst.toNat + k) = true) →
    ((∃ k, k < inSize i s ∧ s.chip.plain (s.src.toNat + k) = false) ∨
      (∃ k, k < outSize i s ∧ s.chip.plain (s.dst.toNat + k) = false)) →
    exec i s = .fault .nonIdempotentWindow) ∧
  (∀ (i : Instr) (s : State) (f : Fault), exec i s = .fault f →
    f = .nonIdempotentWindow ∧ precheck i s = none ∧ windowsPlain i s = false) ∧
  ∀ (i : Instr) (s : State) (r : Refusal), exec i s ≠ .refused r

/-- 60_exceptions.md R202, R203: a command that ends with an error changes the completion fields only, with a code of 1 to 8, so no
data-memory byte and no KEYBOX entry; the IRQ rises if enabled; the state is the one before START but for those fields. -/
def Obligations.ErrorChangesCompletionFieldsOnly : Prop :=
  (∀ (i : Instr) (s t : State), exec i s = .next t → t.err = true →
    ∃ (code : Byte) (info : Word), 1 ≤ code.toNat ∧ code.toNat ≤ 8 ∧ t = failedWith s code info ∧ t.irq = s.irqEn) ∧
  (∀ (s : State) (code : Byte) (info : Word), failedWith s.acceptStart code info = failedWith s code info)

/-- 60_exceptions.md R204: on a coherent platform the error code and information depend only on the command, its operands, KB_VALID,
the platform, the keys and what data memory holds. -/
def Obligations.ErrorsAreDeterministic : Prop :=
  ∀ (i : Instr) (s s' t t' : State), s.chip.dmaCoherent = true → s'.chip = s.chip → s'.src = s.src → s'.dst = s.dst →
    s'.len = s.len → s'.kbValid = s.kbValid → (∀ a, s'.mem.read a = s.mem.read a) →
    exec i s = .next t → exec i s' = .next t' → t'.err = t.err ∧ t'.errCode = t.errCode ∧ t'.errInfo = t.errInfo

/-! ### Frames -/

/-- What no command changes, which commands change the key box, KB_VALID and STREAM_POS, and that memory and the host's cache marks
change in `[DST, DST + OUT_LEN)` only (20_memory.md R57, 42_keybox.md R152, 45_stream_decipher.md R181), for every command. -/
def Obligations.CommandFrame : Prop :=
  ∀ (i : Instr) (s t : State), exec i s = .next t →
    (t.chip = s.chip ∧ t.irqEn = s.irqEn ∧ t.cmd = s.cmd ∧ t.src = s.src ∧ t.dst = s.dst ∧ t.len = s.len ∧
      t.host = s.host ∧ t.turns = s.turns ∧ t.answer = s.answer ∧ t.draws = s.draws) ∧
    (t.busy = false ∧ t.done = true) ∧
    (i ≠ .keyboxBuild → t.keybox = s.keybox ∧ t.kbValid = s.kbValid) ∧
    (i ≠ .keyboxBuild → i ≠ .streamDecipher → t.streamPos = s.streamPos) ∧
    ((i = .nop ∨ i = .keyboxBuild) → t.mem = s.mem ∧ t.cache = s.cache) ∧
    (∀ a, (a < s.dst.toNat ∨ s.dst.toNat + t.outLen.toNat ≤ a) → t.mem.read a = s.mem.read a) ∧
    MarksWritten s t s.dst.toNat t.outLen.toNat ∧ t.outLen.toNat ≤ outSize i s

/-- 40_control.md R105: the output bytes and length do not depend on where the output window is, in place or disjoint. -/
def Obligations.ResultIndependentOfDestination : Prop :=
  ∀ (i : Instr) (s : State) (d : Word) (t u : State),
    s.WindowsGood (inSize i s) (outSize i s) → s.Maintained (inSize i s) (outSize i s) →
    ({ s with dst := d } : State).WindowsGood (inSize i s) (outSize i s) →
    ({ s with dst := d } : State).Maintained (inSize i s) (outSize i s) →
    exec i s = .next t → exec i { s with dst := d } = .next u →
    u.outLen = t.outLen ∧ u.errCode = t.errCode ∧ u.keybox = t.keybox ∧ u.streamPos = t.streamPos ∧
      ∀ k, k < t.outLen.toNat → u.mem.read (d.toNat + k) = t.mem.read (s.dst.toNat + k)

/-! ### Laws of the decipher and the metadata path -/

/-- 45_stream_decipher.md R182: deciphering a payload in any chunks gives the same memory and the same STREAM_POS as in one. -/
def Obligations.ChunkBoundariesDoNotMatter : Prop :=
  ∀ (s : State) (ns : List Nat), s.kbValid = true → ns.sum = s.len.toNat → s.WindowsGood s.len.toNat s.len.toNat →
    s.Maintained s.len.toNat s.len.toNat →
    ∃ t u, exec .streamDecipher s = .next t ∧ decipherChunks ns s = .next u ∧
      (∀ a, u.mem.read a = t.mem.read a) ∧ u.streamPos = t.streamPos ∧ u.keybox = s.keybox

/-- 45_stream_decipher.md R183: deciphering the same bytes twice at the same position gives the original bytes back: from SRC to DST,
then from DST to any destination `d`; in place all of memory is as before. -/
def Obligations.DecipherTwiceRestores : Prop :=
  ∀ (s : State) (d : Word), s.kbValid = true → s.WindowsGood s.len.toNat s.len.toNat → s.Maintained s.len.toNat s.len.toNat →
    ({ s with src := s.dst, dst := d } : State).WindowsGood s.len.toNat s.len.toNat →
    ({ s with src := s.dst, dst := d } : State).Maintained s.len.toNat s.len.toNat →
    ∃ t u, exec .streamDecipher s = .next t ∧
      exec .streamDecipher { t with src := s.dst, dst := d, streamPos := s.streamPos } = .next u ∧
      (∀ k, k < s.len.toNat → u.mem.read (d.toNat + k) = s.mem.read (s.src.toNat + k)) ∧
      (s.src = s.dst → d = s.dst → ∀ a, u.mem.read a = s.mem.read a)

/-- 43_metadata.md R162: META_DECRYPT gives the same output and the same error as ECB_DECRYPT.META followed by UNPAD in place. -/
def Obligations.MetaDecryptIsDecryptThenUnpad : Prop :=
  ∀ s : State, s.len.toNat % 16 = 0 → s.WindowsGood s.len.toNat s.len.toNat → s.Maintained s.len.toNat s.len.toNat →
    (∀ k, k < s.len.toNat → s.chip.admits .read (s.dst.toNat + k) = true) →
    ∃ t u v, exec .metaDecrypt s = .next t ∧ exec .ecbDecryptMeta s = .next u ∧ exec .unpad { u with src := s.dst } = .next v ∧
      v.err = t.err ∧ v.errCode = t.errCode ∧ v.errInfo = t.errInfo ∧ v.outLen = t.outLen ∧
      ∀ k, k < t.outLen.toNat → v.mem.read (s.dst.toNat + k) = t.mem.read (s.dst.toNat + k)

/-! ### Reset -/

/-- 70_reset_and_hazards.md R240: the state after power-on reset, on every chip, and the same registers after the reset input is
asserted during a run; the IRQ is low and no command is in progress. R243: neither that reset nor the soft reset changes data memory
outside an aborted command's output window. That they leave the host's cache marks there as they were is the model's choice, as the
marks are (assumption 7). -/
def Obligations.PowerOnResetValues : Prop :=
  (∀ c : Chip, (State.resetOn c).irqEn = false ∧ (State.resetOn c).statusWord = 0 ∧ (State.resetOn c).cmd = 0 ∧
    (State.resetOn c).src = 0 ∧ (State.resetOn c).dst = 0 ∧ (State.resetOn c).len = 0 ∧ (State.resetOn c).outLen = 0 ∧
    (State.resetOn c).errCode = 0 ∧ (State.resetOn c).errInfo = 0 ∧ (State.resetOn c).streamPos = 1 ∧
    (State.resetOn c).irq = false ∧ (State.resetOn c).running = none ∧
    ∀ m, (State.resetOn c).keyboxWin m = 0) ∧
  (∀ s : State, s.hostDoes .powerOnReset → ∃ t, step s = .next t ∧
    t = { State.resetOn s.chip with keybox := t.keybox, mem := t.mem, cache := t.cache, host := s.host.tail,
                                    turns := s.turns.tail, answer := s.answer, draws := s.draws + 1 }) ∧
  (∀ s t : State, (s.hostDoes .powerOnReset ∨ ∃ v : Word, s.hostDoes (.regWrite 0x004 .word v) ∧ v.getLsbD 1 = true) →
    step s = .next t →
    (∀ a, s.runningOutput a = false → t.mem.read a = s.mem.read a ∧ t.mark a = s.mark a) ∧
    (s.busy = false → t.mem = s.mem ∧ t.cache = s.cache))

/-- 70_reset_and_hazards.md R241, R242, R243: a write of CTRL with SRST = 1 resets every register whether or not a command is in
progress, whatever the other bits say; the command never completes; memory outside its output window is unchanged. -/
def Obligations.SoftResetAborts : Prop :=
  ∀ (s : State) (v : Word), s.hostDoes (.regWrite 0x004 .word v) → v.getLsbD 1 = true → ∃ t, step s = .next t ∧
    t = { State.resetOn s.chip with keybox := t.keybox, mem := t.mem, cache := t.cache, host := s.host.tail,
                                    turns := s.turns.tail, answer := .accepted, draws := s.draws + 1 } ∧
    (∀ a, s.runningOutput a = false → t.mem.read a = s.mem.read a) ∧ (s.busy = false → t.mem = s.mem)

/-! ### The host's register accesses -/

/-- 10_state.md R22: ID reads 0x4E434D44 and ignores writes. -/
def Obligations.IdRegister : Prop :=
  (∀ s : State, s.hostDoes (.regRead 0x000 .word) → step s = .next { s.afterAccess with answer := .word 0x4E434D44 }) ∧
  (∀ (s : State) (v : Word), s.hostDoes (.regWrite 0x000 .word v) → step s = .next { s.afterAccess with answer := .accepted })

/-- 10_state.md R37: the reserved offsets read 0 and ignore writes. -/
def Obligations.ReservedOffsets : Prop :=
  ∀ (s : State) (o : BitVec 12) (v : Word), o.toNat % 4 = 0 →
    ((0x02C ≤ o.toNat ∧ o.toNat ≤ 0x0FC) ∨ (0x200 ≤ o.toNat ∧ o.toNat ≤ 0xFFC)) →
    (s.hostDoes (.regRead o .word) → step s = .next { s.afterAccess with answer := .word 0 }) ∧
    (s.hostDoes (.regWrite o .word v) → step s = .next { s.afterAccess with answer := .accepted })

/-- 10_state.md R31: KEYBOX_WIN[m] reads four entries, the lowest in the least significant byte, while KB_VALID = 1 and BUSY = 0, and 0
otherwise; writes are ignored. -/
def Obligations.KeyboxWindow : Prop :=
  ∀ (s : State) (m : Nat) (_ : m ≤ 63) (o : BitVec 12), o.toNat = 0x100 + 4 * m →
    (s.hostDoes (.regRead o .word) → s.kbValid = true → s.busy = false →
      ∃ w : Word, step s = .next { s.afterAccess with answer := .word w } ∧
        w = (s.keybox[4 * m]).setWidth 32 ||| (s.keybox[4 * m + 1]).setWidth 32 <<< 8 |||
          (s.keybox[4 * m + 2]).setWidth 32 <<< 16 ||| (s.keybox[4 * m + 3]).setWidth 32 <<< 24) ∧
    (s.hostDoes (.regRead o .word) → (s.kbValid = false ∨ s.busy = true) →
      step s = .next { s.afterAccess with answer := .word 0 }) ∧
    (∀ v, s.hostDoes (.regWrite o .word v) → step s = .next { s.afterAccess with answer := .accepted })

/-- 20_memory.md R60: an access that is not a naturally aligned 32-bit one gets a bus error and changes nothing; a register read
changes nothing but the answer. -/
def Obligations.OnlyAlignedWordAccesses : Prop :=
  ∀ (s : State) (o : BitVec 12) (z : AccessSize) (v : Word),
    ((z ≠ .word ∨ o.toNat % 4 ≠ 0) →
      (s.hostDoes (.regRead o z) → step s = .next { s.afterAccess with answer := .busError }) ∧
      (s.hostDoes (.regWrite o z v) → step s = .next { s.afterAccess with answer := .busError })) ∧
    (z = .word → o.toNat % 4 = 0 → s.hostDoes (.regRead o z) →
      ∃ w, step s = .next { s.afterAccess with answer := .word w })

/-- The values of the other registers as the host reads them (10_state.md section 2, R25 to R29, R32 to R34), in every state, BUSY or
not. -/
def Obligations.RegisterReadValues : Prop :=
  ∀ s : State,
    (s.hostDoes (.regRead 0x00C .word) → step s = .next { s.afterAccess with answer := .word s.cmd }) ∧
    (s.hostDoes (.regRead 0x010 .word) → step s = .next { s.afterAccess with answer := .word s.src }) ∧
    (s.hostDoes (.regRead 0x014 .word) → step s = .next { s.afterAccess with answer := .word s.dst }) ∧
    (s.hostDoes (.regRead 0x018 .word) → step s = .next { s.afterAccess with answer := .word s.len }) ∧
    (s.hostDoes (.regRead 0x01C .word) → step s = .next { s.afterAccess with answer := .word s.outLen }) ∧
    (s.hostDoes (.regRead 0x020 .word) → step s = .next { s.afterAccess with answer := .word s.streamPos }) ∧
    (s.hostDoes (.regRead 0x024 .word) → step s = .next { s.afterAccess with answer := .word (s.errCode.setWidth 32) }) ∧
    (s.hostDoes (.regRead 0x028 .word) → step s = .next { s.afterAccess with answer := .word s.errInfo })

/-- A write of an operand register of an idle engine stores the value whole and changes nothing else (10_state.md R25 to R29); a write
of a read-only register changes nothing (10_state.md section 2, R32 to R34). -/
def Obligations.IdleOperandWrites : Prop :=
  ∀ (s : State) (v : Word),
    (s.busy = false →
      (s.hostDoes (.regWrite 0x00C .word v) → step s = .next { s.afterAccess with cmd := v, answer := .accepted }) ∧
      (s.hostDoes (.regWrite 0x010 .word v) → step s = .next { s.afterAccess with src := v, answer := .accepted }) ∧
      (s.hostDoes (.regWrite 0x014 .word v) → step s = .next { s.afterAccess with dst := v, answer := .accepted }) ∧
      (s.hostDoes (.regWrite 0x018 .word v) → step s = .next { s.afterAccess with len := v, answer := .accepted }) ∧
      (s.hostDoes (.regWrite 0x020 .word v) → step s = .next { s.afterAccess with streamPos := v, answer := .accepted })) ∧
    (∀ o : BitVec 12, (o = 0x01C ∨ o = 0x024 ∨ o = 0x028) → s.hostDoes (.regWrite o .word v) →
      step s = .next { s.afterAccess with answer := .accepted })

/-- 10_state.md R23: CTRL reads IRQ_EN at bit 2 and 0 elsewhere; in a write SRST wins, otherwise IRQ_EN is updated and then START acts. -/
def Obligations.CtrlRegister : Prop :=
  ∀ s : State,
    (s.hostDoes (.regRead 0x004 .word) →
      step s = .next { s.afterAccess with answer := .word (if s.irqEn then 0x00000004 else 0x00000000) }) ∧
    ∀ v : Word, s.hostDoes (.regWrite 0x004 .word v) →
      (v.getLsbD 1 = true → step s = .next { s.afterAccess.resetEngine with answer := .accepted }) ∧
      (v.getLsbD 1 = false → (v.getLsbD 0 = false ∨ s.busy = true) →
        step s = .next { s.afterAccess with irqEn := v.getLsbD 2, answer := .accepted }) ∧
      (v.getLsbD 1 = false → v.getLsbD 0 = true → s.busy = false →
        step s = .next { s.afterAccess.acceptStart with irqEn := v.getLsbD 2, answer := .accepted })

/-- 40_control.md R100: an accepted START sets BUSY, clears the completion fields and keeps the operands; the IRQ falls; a START while
BUSY is ignored. -/
def Obligations.AcceptedStart : Prop :=
  ∀ (s : State) (v : Word), s.hostDoes (.regWrite 0x004 .word v) → v.getLsbD 0 = true → v.getLsbD 1 = false →
    (s.busy = false → ∃ t, step s = .next t ∧
      t = { s.afterAccess with busy := true, done := false, err := false, outLen := 0, errCode := 0, errInfo := 0,
                               irqEn := v.getLsbD 2, answer := .accepted } ∧ t.irq = false) ∧
    (s.busy = true → step s = .next { s.afterAccess with irqEn := v.getLsbD 2, answer := .accepted })

/-- 10_state.md R24: STATUS reads its four flags and 0 above; a write while idle clears DONE where bit 1 is 1 and ERR where bit 2 is 1 and
changes nothing else. -/
def Obligations.StatusRegister : Prop :=
  ∀ s : State,
    (s.hostDoes (.regRead 0x008 .word) → ∃ w : Word, step s = .next { s.afterAccess with answer := .word w } ∧
      w.toNat = s.busy.toNat + 2 * s.done.toNat + 4 * s.err.toNat + 8 * s.kbValid.toNat) ∧
    ∀ v : Word, s.hostDoes (.regWrite 0x008 .word v) → s.busy = false →
      step s = .next { s.afterAccess with done := s.done && !v.getLsbD 1, err := s.err && !v.getLsbD 2, answer := .accepted }

/-- 40_control.md R101: while BUSY = 1 writes of CMD, SRC, DST, LEN, STREAM_POS and STATUS and a START are ignored, IRQ_EN is written,
SRST resets, and KEYBOX_WIN reads 0. -/
def Obligations.WritesWhileBusy : Prop :=
  ∀ (s : State) (v : Word), s.busy = true →
    (∀ o : BitVec 12, (o = 0x00C ∨ o = 0x010 ∨ o = 0x014 ∨ o = 0x018 ∨ o = 0x020 ∨ o = 0x008) →
      s.hostDoes (.regWrite o .word v) → step s = .next { s.afterAccess with answer := .accepted }) ∧
    (s.hostDoes (.regWrite 0x004 .word v) → v.getLsbD 1 = false →
      step s = .next { s.afterAccess with irqEn := v.getLsbD 2, answer := .accepted }) ∧
    (s.hostDoes (.regWrite 0x004 .word v) → v.getLsbD 1 = true →
      ∃ t, step s = .next t ∧ t.busy = false ∧ t.done = false) ∧
    (∀ o : BitVec 12, o.toNat % 4 = 0 → s.hostDoes (.regRead o .word) →
      step s = .next { s.afterAccess with answer := .word (s.readRegister o) }) ∧
    (∀ o : BitVec 12, o.toNat % 4 = 0 → 0x100 ≤ o.toNat → o.toNat < 0x200 → s.readRegister o = 0)

/-! ### The interrupt output -/

/-- 60_exceptions.md R210: completion is the only source of the IRQ: it rises only when the engine completes a command with IRQ_EN = 1,
or when the host enables it over a completion already recorded. -/
def Obligations.IrqRisesOnlyAtCompletion : Prop :=
  (∀ s : State, s.irq = (s.irqEn && s.done)) ∧
  (∀ (i : Instr) (s t : State), exec i s = .next t → t.irq = s.irqEn) ∧
  ∀ s t : State, step s = .next t → s.irq = false → t.irq = true →
    (s.engineMoves ∧ s.irqEn = true) ∨
    (∃ v : Word, s.hostDoes (.regWrite 0x004 .word v) ∧ v.getLsbD 2 = true ∧ s.done = true)

/-- 60_exceptions.md R211: what lowers the IRQ, and that clearing ERR alone does not. -/
def Obligations.IrqFalls : Prop :=
  ∀ (s t : State) (v : Word), step s = .next t →
    (s.hostDoes (.regWrite 0x008 .word v) → s.busy = false → v.getLsbD 1 = true → t.irq = false) ∧
    (s.hostDoes (.regWrite 0x004 .word v) → s.busy = false → v.getLsbD 0 = true → t.irq = false) ∧
    (s.hostDoes (.regWrite 0x004 .word v) → v.getLsbD 1 = true → t.irq = false) ∧
    (s.hostDoes (.regWrite 0x004 .word v) → v.getLsbD 2 = false → t.irq = false) ∧
    (s.hostDoes .powerOnReset → t.irq = false) ∧
    (s.hostDoes (.regWrite 0x008 .word v) → v.getLsbD 1 = false → t.irq = s.irq)

/-! ### The host's data accesses -/

/-- 20_memory.md R64: while BUSY = 1 a host write of a byte of either window, and a host read of a byte of the output window, is the
fault HOST_RACE. That it is so also at a window byte in the register block, where R60 has a bus error, or at a device, is the model's
choice (assumption 19). -/
def Obligations.HostRaceFaults : Prop :=
  ∀ (s : State) (i : Instr) (a : Word) (b : Byte), s.busy = true → decode s.cmd = .ok i →
    (s.hostDoes (.memWrite a b) →
      ((s.src.toNat ≤ a.toNat ∧ a.toNat < s.src.toNat + inSize i s) ∨
        (s.dst.toNat ≤ a.toNat ∧ a.toNat < s.dst.toNat + outSize i s)) → step s = .fault .hostRace) ∧
    (s.hostDoes (.memRead a) → (s.dst.toNat ≤ a.toNat ∧ a.toNat < s.dst.toNat + outSize i s) → step s = .fault .hostRace)

/-- Host byte accesses outside the running windows (70_reset_and_hazards.md R257). At memory a write changes that byte only, and a read
answers the last value written, where the host's copy is not out of date (20_memory.md R61, R63). In the register block they get a bus error
(20_memory.md R60; assumption 8), at another device they are refused (20_memory.md R52; assumption 13). Inside the windows the race
comes first (HostRaceFaults; assumption 19). -/
def Obligations.HostDataAccess : Prop :=
  ∀ (s : State) (a : Word) (b : Byte), s.runningOutput a.toNat = false →
    (s.chip.plain a.toNat = true →
      (s.hostDoes (.memRead a) → (s.mark a.toNat).outdated = false →
        step s = .next { s.afterAccess with answer := .byte (s.mem.read a.toNat) }) ∧
      (s.hostDoes (.memWrite a b) → s.runningInput a.toNat = false → ∃ t, step s = .next t ∧
        t = { s.afterAccess with mem := t.mem, cache := t.cache, answer := .accepted } ∧
        ∀ x, t.mem.read x = if x = a.toNat then b else s.mem.read x)) ∧
    (s.chip.ownBlock a.toNat = true →
      (s.hostDoes (.memRead a) → step s = .next { s.afterAccess with answer := .busError }) ∧
      (s.hostDoes (.memWrite a b) → s.runningInput a.toNat = false → step s = .next { s.afterAccess with answer := .busError })) ∧
    (s.chip.ownBlock a.toNat = false → s.chip.deviceAt a.toNat = true →
      (s.hostDoes (.memRead a) → step s = .refused .deviceAccess) ∧
      (s.hostDoes (.memWrite a b) → s.runningInput a.toNat = false → step s = .refused .deviceAccess))

/-- Cache maintenance over a range (20_memory.md R62, R63): it races when a byte of it lies in a running window and is not synced
(assumption 11); otherwise a clean makes its dirty bytes synced and its clashed bytes stale and changes memory at its clashed bytes
only, and an invalidation makes all its bytes synced and changes memory at its dirty and clashed bytes only. Nothing else changes. The
caches are the model's own (assumption 7). -/
def Obligations.CacheMaintenance : Prop :=
  ∀ (s : State) (a : Word) (n : Nat),
    (s.MaintenanceRaces a.toNat n →
      (s.hostDoes (.cacheClean a n) → step s = .fault .hostRace) ∧ (s.hostDoes (.cacheInvalidate a n) → step s = .fault .hostRace)) ∧
    (¬ s.MaintenanceRaces a.toNat n →
      (s.hostDoes (.cacheClean a n) → ∃ t, step s = .next t ∧
        t = { s.afterAccess with mem := t.mem, cache := t.cache, answer := .accepted } ∧
        (∀ x, t.mark x = if a.toNat ≤ x ∧ x < a.toNat + n then (s.mark x).afterClean else s.mark x) ∧
        ∀ x, (x < a.toNat ∨ a.toNat + n ≤ x ∨ s.mark x ≠ .clashed) → t.mem.read x = s.mem.read x) ∧
      (s.hostDoes (.cacheInvalidate a n) → ∃ t, step s = .next t ∧
        t = { s.afterAccess with mem := t.mem, cache := t.cache, answer := .accepted } ∧
        (∀ x, t.mark x = if a.toNat ≤ x ∧ x < a.toNat + n then .synced else s.mark x) ∧
        ∀ x, (x < a.toNat ∨ a.toNat + n ≤ x ∨ (s.mark x).unflushed = false) → t.mem.read x = s.mem.read x))

/-- POLL and the wait for IRQ repeat until they are met (30_encoding.md R76, 70_reset_and_hazards.md R257). -/
def Obligations.WaitsRepeatUntilMet : Prop :=
  (∀ (s : State) (o : BitVec 12) (mask v : Word), o.toNat % 4 = 0 → s.hostDoes (.poll o mask v) →
    (s.readRegister o &&& mask = v → step s = .next { s.afterAccess with answer := .word (s.readRegister o) }) ∧
    (s.readRegister o &&& mask ≠ v →
      step s = .next { s.afterAccess with host := s.host, answer := .word (s.readRegister o) })) ∧
  (∀ s : State, s.hostDoes .waitIrq →
    (s.irq = true → step s = .next s.afterAccess) ∧ (s.irq = false → step s = .next { s.afterAccess with host := s.host }))

/-- 30_encoding.md R77: each pseudo-operation is exactly its expansion into writes and polls; an omitted operand omits its write. -/
def Obligations.PseudoOperationsExpand : Prop :=
  (∀ (i : Instr) (a d n : Option Word), lineIssue i a d n =
    (a.map (HostOp.regWrite 0x010 .word)).toList ++ (d.map (HostOp.regWrite 0x014 .word)).toList ++
      (n.map (HostOp.regWrite 0x018 .word)).toList ++ [.regWrite 0x00C .word (encode i), .regWrite 0x004 .word 0x00000001]) ∧
  (∀ (i : Instr) (a d n : Option Word), lineIssueIrq i a d n =
    (a.map (HostOp.regWrite 0x010 .word)).toList ++ (d.map (HostOp.regWrite 0x014 .word)).toList ++
      (n.map (HostOp.regWrite 0x018 .word)).toList ++ [.regWrite 0x00C .word (encode i), .regWrite 0x004 .word 0x00000005]) ∧
  lineWait = [.poll 0x008 0x00000001 0x00000000] ∧ lineAck = [.regWrite 0x008 .word 0x00000006] ∧
  (∀ p, lineSetPos p = [.regWrite 0x020 .word p]) ∧ lineSrst = [.regWrite 0x004 .word 0x00000002]

/-! ### The whole machine -/

/-- Every step keeps the invariant (10_state.md R24, R34, R35; 42_keybox.md R151; 60_exceptions.md R200, R202). -/
def Obligations.StepKeepsInvariant : Prop := ∀ s t : State, s.Inv → step s = .next t → t.Inv

/-- The invariant holds after reset, on every chip. -/
def Obligations.ResetMeetsInvariant : Prop := (∀ c : Chip, (State.resetOn c).Inv) ∧ State.reset.Inv

/-- The platform's parameters, the two keys among them, never change (00_scope.md R6, 44_key_unwrap.md R171). -/
def Obligations.ChipNeverChanges : Prop := ∀ s t : State, step s = .next t → t.chip = s.chip

/-- KB_VALID is set only by a successful KEYBOX_BUILD and cleared only by a reset, and KEYBOX RAM changes only then (10_state.md R24,
R30). -/
def Obligations.KeyBoxChangesOnlyByBuildOrReset : Prop :=
  ∀ s t : State, step s = .next t →
    (t.kbValid ≠ s.kbValid ∨ t.keybox ≠ s.keybox) →
    (s.engineMoves ∧ decode s.cmd = .ok .keyboxBuild ∧ t.err = false ∧ t.kbValid = true) ∨
    (((∃ v : Word, s.hostDoes (.regWrite 0x004 .word v) ∧ v.getLsbD 1 = true) ∨ s.hostDoes .powerOnReset) ∧ t.kbValid = false)

/-- STREAM_POS changes only by KEYBOX_BUILD, STREAM_DECIPHER, a host write of an idle engine, or a reset (10_state.md R29,
45_stream_decipher.md R184). -/
def Obligations.StreamPosChangesOnlyByItsWriters : Prop :=
  ∀ s t : State, step s = .next t → t.streamPos ≠ s.streamPos →
    (s.engineMoves ∧ t.err = false ∧
      ((decode s.cmd = .ok .keyboxBuild ∧ t.streamPos = 1) ∨
        (decode s.cmd = .ok .streamDecipher ∧ t.streamPos = s.streamPos + s.len))) ∨
    (s.busy = false ∧ s.hostDoes (.regWrite 0x020 .word t.streamPos)) ∨
    (((∃ v : Word, s.hostDoes (.regWrite 0x004 .word v) ∧ v.getLsbD 1 = true) ∨ s.hostDoes .powerOnReset) ∧ t.streamPos = 1)

/-- 10_state.md R30: while KB_VALID = 0 the content of KEYBOX RAM is not observable: two states that differ in it step alike, and when
the step makes the key box valid the two key boxes are equal. -/
def Obligations.UnbuiltKeyBoxIsUnobservable : Prop :=
  ∀ (s : State) (box : KeyBox), s.kbValid = false →
    (∀ t, step s = .next t → ∃ box', step { s with keybox := box } = .next { t with keybox := box' } ∧
      (t.kbValid = true → box' = t.keybox)) ∧
    (∀ f, step s = .fault f → step { s with keybox := box } = .fault f) ∧
    (∀ r, step s = .refused r → step { s with keybox := box } = .refused r)

/-- 40_control.md R109: an accepted command completes (or is reset) after at most as many steps as turns are scheduled, and one more,
unless the host's own access stops the run; with no host access pending it does complete, on idempotent windows. -/
def Obligations.AcceptedCommandCompletes : Prop :=
  ∀ s : State, s.busy = true →
    (∃ k, k ≤ s.turns.length + 1 ∧
      ((∃ t, core.run k s = .next t ∧ t.busy = false) ∨ (∃ f, core.run k s = .fault f) ∨ ∃ r, core.run k s = .refused r)) ∧
    (s.host = [] → (∀ i, decode s.cmd = .ok i → windowsPlain i s = true) →
      ∃ k t, k ≤ s.turns.length + 1 ∧ core.run k s = .next t ∧ t.busy = false ∧ t.done = true)
end

