-- ==== Sys2Proof/Laws/State.lean ====
section
/-! SUPPORT. What each update of State leaves in each field, for simp. -/

namespace Sys2Proof.Machine

variable (s : State)

/-! ### acceptStart -/

@[simp] theorem acceptStart_chip : s.acceptStart.chip = s.chip := rfl
@[simp] theorem acceptStart_irqEn : s.acceptStart.irqEn = s.irqEn := rfl
@[simp] theorem acceptStart_busy : s.acceptStart.busy = true := rfl
@[simp] theorem acceptStart_done : s.acceptStart.done = false := rfl
@[simp] theorem acceptStart_err : s.acceptStart.err = false := rfl
@[simp] theorem acceptStart_kbValid : s.acceptStart.kbValid = s.kbValid := rfl
@[simp] theorem acceptStart_cmd : s.acceptStart.cmd = s.cmd := rfl
@[simp] theorem acceptStart_src : s.acceptStart.src = s.src := rfl
@[simp] theorem acceptStart_dst : s.acceptStart.dst = s.dst := rfl
@[simp] theorem acceptStart_len : s.acceptStart.len = s.len := rfl
@[simp] theorem acceptStart_outLen : s.acceptStart.outLen = 0 := rfl
@[simp] theorem acceptStart_streamPos : s.acceptStart.streamPos = s.streamPos := rfl
@[simp] theorem acceptStart_errCode : s.acceptStart.errCode = 0 := rfl
@[simp] theorem acceptStart_errInfo : s.acceptStart.errInfo = 0 := rfl
@[simp] theorem acceptStart_keybox : s.acceptStart.keybox = s.keybox := rfl
@[simp] theorem acceptStart_mem : s.acceptStart.mem = s.mem := rfl
@[simp] theorem acceptStart_cache : s.acceptStart.cache = s.cache := rfl
@[simp] theorem acceptStart_host : s.acceptStart.host = s.host := rfl
@[simp] theorem acceptStart_turns : s.acceptStart.turns = s.turns := rfl
@[simp] theorem acceptStart_answer : s.acceptStart.answer = s.answer := rfl
@[simp] theorem acceptStart_draws : s.acceptStart.draws = s.draws := rfl

/-! ### complete -/

@[simp] theorem complete_chip (n : Nat) : (s.complete n).chip = s.chip := rfl
@[simp] theorem complete_irqEn (n : Nat) : (s.complete n).irqEn = s.irqEn := rfl
@[simp] theorem complete_busy (n : Nat) : (s.complete n).busy = false := rfl
@[simp] theorem complete_done (n : Nat) : (s.complete n).done = true := rfl
@[simp] theorem complete_err (n : Nat) : (s.complete n).err = false := rfl
@[simp] theorem complete_kbValid (n : Nat) : (s.complete n).kbValid = s.kbValid := rfl
@[simp] theorem complete_cmd (n : Nat) : (s.complete n).cmd = s.cmd := rfl
@[simp] theorem complete_src (n : Nat) : (s.complete n).src = s.src := rfl
@[simp] theorem complete_dst (n : Nat) : (s.complete n).dst = s.dst := rfl
@[simp] theorem complete_len (n : Nat) : (s.complete n).len = s.len := rfl
@[simp] theorem complete_outLen (n : Nat) : (s.complete n).outLen = BitVec.ofNat 32 n := rfl
@[simp] theorem complete_streamPos (n : Nat) : (s.complete n).streamPos = s.streamPos := rfl
@[simp] theorem complete_errCode (n : Nat) : (s.complete n).errCode = 0 := rfl
@[simp] theorem complete_errInfo (n : Nat) : (s.complete n).errInfo = 0 := rfl
@[simp] theorem complete_keybox (n : Nat) : (s.complete n).keybox = s.keybox := rfl
@[simp] theorem complete_mem (n : Nat) : (s.complete n).mem = s.mem := rfl
@[simp] theorem complete_cache (n : Nat) : (s.complete n).cache = s.cache := rfl
@[simp] theorem complete_host (n : Nat) : (s.complete n).host = s.host := rfl
@[simp] theorem complete_turns (n : Nat) : (s.complete n).turns = s.turns := rfl
@[simp] theorem complete_answer (n : Nat) : (s.complete n).answer = s.answer := rfl
@[simp] theorem complete_draws (n : Nat) : (s.complete n).draws = s.draws := rfl

/-! ### raise -/

@[simp] theorem raise_chip (e : CmdError) : (s.raise e).chip = s.chip := rfl
@[simp] theorem raise_irqEn (e : CmdError) : (s.raise e).irqEn = s.irqEn := rfl
@[simp] theorem raise_busy (e : CmdError) : (s.raise e).busy = false := rfl
@[simp] theorem raise_done (e : CmdError) : (s.raise e).done = true := rfl
@[simp] theorem raise_err (e : CmdError) : (s.raise e).err = true := rfl
@[simp] theorem raise_kbValid (e : CmdError) : (s.raise e).kbValid = s.kbValid := rfl
@[simp] theorem raise_cmd (e : CmdError) : (s.raise e).cmd = s.cmd := rfl
@[simp] theorem raise_src (e : CmdError) : (s.raise e).src = s.src := rfl
@[simp] theorem raise_dst (e : CmdError) : (s.raise e).dst = s.dst := rfl
@[simp] theorem raise_len (e : CmdError) : (s.raise e).len = s.len := rfl
@[simp] theorem raise_outLen (e : CmdError) : (s.raise e).outLen = 0 := rfl
@[simp] theorem raise_streamPos (e : CmdError) : (s.raise e).streamPos = s.streamPos := rfl
@[simp] theorem raise_errCode (e : CmdError) : (s.raise e).errCode = e.code := rfl
@[simp] theorem raise_errInfo (e : CmdError) : (s.raise e).errInfo = e.info := rfl
@[simp] theorem raise_keybox (e : CmdError) : (s.raise e).keybox = s.keybox := rfl
@[simp] theorem raise_mem (e : CmdError) : (s.raise e).mem = s.mem := rfl
@[simp] theorem raise_cache (e : CmdError) : (s.raise e).cache = s.cache := rfl
@[simp] theorem raise_host (e : CmdError) : (s.raise e).host = s.host := rfl
@[simp] theorem raise_turns (e : CmdError) : (s.raise e).turns = s.turns := rfl
@[simp] theorem raise_answer (e : CmdError) : (s.raise e).answer = s.answer := rfl
@[simp] theorem raise_draws (e : CmdError) : (s.raise e).draws = s.draws := rfl

/-! ### setIrqEn -/

@[simp] theorem setIrqEn_chip (b : Bool) : (s.setIrqEn b).chip = s.chip := rfl
@[simp] theorem setIrqEn_irqEn (b : Bool) : (s.setIrqEn b).irqEn = b := rfl
@[simp] theorem setIrqEn_busy (b : Bool) : (s.setIrqEn b).busy = s.busy := rfl
@[simp] theorem setIrqEn_done (b : Bool) : (s.setIrqEn b).done = s.done := rfl
@[simp] theorem setIrqEn_err (b : Bool) : (s.setIrqEn b).err = s.err := rfl
@[simp] theorem setIrqEn_kbValid (b : Bool) : (s.setIrqEn b).kbValid = s.kbValid := rfl
@[simp] theorem setIrqEn_cmd (b : Bool) : (s.setIrqEn b).cmd = s.cmd := rfl
@[simp] theorem setIrqEn_src (b : Bool) : (s.setIrqEn b).src = s.src := rfl
@[simp] theorem setIrqEn_dst (b : Bool) : (s.setIrqEn b).dst = s.dst := rfl
@[simp] theorem setIrqEn_len (b : Bool) : (s.setIrqEn b).len = s.len := rfl
@[simp] theorem setIrqEn_outLen (b : Bool) : (s.setIrqEn b).outLen = s.outLen := rfl
@[simp] theorem setIrqEn_streamPos (b : Bool) : (s.setIrqEn b).streamPos = s.streamPos := rfl
@[simp] theorem setIrqEn_errCode (b : Bool) : (s.setIrqEn b).errCode = s.errCode := rfl
@[simp] theorem setIrqEn_errInfo (b : Bool) : (s.setIrqEn b).errInfo = s.errInfo := rfl
@[simp] theorem setIrqEn_keybox (b : Bool) : (s.setIrqEn b).keybox = s.keybox := rfl
@[simp] theorem setIrqEn_mem (b : Bool) : (s.setIrqEn b).mem = s.mem := rfl
@[simp] theorem setIrqEn_cache (b : Bool) : (s.setIrqEn b).cache = s.cache := rfl
@[simp] theorem setIrqEn_host (b : Bool) : (s.setIrqEn b).host = s.host := rfl
@[simp] theorem setIrqEn_turns (b : Bool) : (s.setIrqEn b).turns = s.turns := rfl
@[simp] theorem setIrqEn_answer (b : Bool) : (s.setIrqEn b).answer = s.answer := rfl
@[simp] theorem setIrqEn_draws (b : Bool) : (s.setIrqEn b).draws = s.draws := rfl

/-! ### popHost -/

@[simp] theorem popHost_chip : s.popHost.chip = s.chip := rfl
@[simp] theorem popHost_irqEn : s.popHost.irqEn = s.irqEn := rfl
@[simp] theorem popHost_busy : s.popHost.busy = s.busy := rfl
@[simp] theorem popHost_done : s.popHost.done = s.done := rfl
@[simp] theorem popHost_err : s.popHost.err = s.err := rfl
@[simp] theorem popHost_kbValid : s.popHost.kbValid = s.kbValid := rfl
@[simp] theorem popHost_cmd : s.popHost.cmd = s.cmd := rfl
@[simp] theorem popHost_src : s.popHost.src = s.src := rfl
@[simp] theorem popHost_dst : s.popHost.dst = s.dst := rfl
@[simp] theorem popHost_len : s.popHost.len = s.len := rfl
@[simp] theorem popHost_outLen : s.popHost.outLen = s.outLen := rfl
@[simp] theorem popHost_streamPos : s.popHost.streamPos = s.streamPos := rfl
@[simp] theorem popHost_errCode : s.popHost.errCode = s.errCode := rfl
@[simp] theorem popHost_errInfo : s.popHost.errInfo = s.errInfo := rfl
@[simp] theorem popHost_keybox : s.popHost.keybox = s.keybox := rfl
@[simp] theorem popHost_mem : s.popHost.mem = s.mem := rfl
@[simp] theorem popHost_cache : s.popHost.cache = s.cache := rfl
@[simp] theorem popHost_host : s.popHost.host = s.host.tail := rfl
@[simp] theorem popHost_turns : s.popHost.turns = s.turns := rfl
@[simp] theorem popHost_answer : s.popHost.answer = s.answer := rfl
@[simp] theorem popHost_draws : s.popHost.draws = s.draws := rfl

/-! ### tick -/

@[simp] theorem tick_chip : s.tick.chip = s.chip := rfl
@[simp] theorem tick_irqEn : s.tick.irqEn = s.irqEn := rfl
@[simp] theorem tick_busy : s.tick.busy = s.busy := rfl
@[simp] theorem tick_done : s.tick.done = s.done := rfl
@[simp] theorem tick_err : s.tick.err = s.err := rfl
@[simp] theorem tick_kbValid : s.tick.kbValid = s.kbValid := rfl
@[simp] theorem tick_cmd : s.tick.cmd = s.cmd := rfl
@[simp] theorem tick_src : s.tick.src = s.src := rfl
@[simp] theorem tick_dst : s.tick.dst = s.dst := rfl
@[simp] theorem tick_len : s.tick.len = s.len := rfl
@[simp] theorem tick_outLen : s.tick.outLen = s.outLen := rfl
@[simp] theorem tick_streamPos : s.tick.streamPos = s.streamPos := rfl
@[simp] theorem tick_errCode : s.tick.errCode = s.errCode := rfl
@[simp] theorem tick_errInfo : s.tick.errInfo = s.errInfo := rfl
@[simp] theorem tick_keybox : s.tick.keybox = s.keybox := rfl
@[simp] theorem tick_mem : s.tick.mem = s.mem := rfl
@[simp] theorem tick_cache : s.tick.cache = s.cache := rfl
@[simp] theorem tick_host : s.tick.host = s.host := rfl
@[simp] theorem tick_turns : s.tick.turns = s.turns.tail := rfl
@[simp] theorem tick_answer : s.tick.answer = s.answer := rfl
@[simp] theorem tick_draws : s.tick.draws = s.draws + 1 := rfl

/-! ### resetRegisters -/

@[simp] theorem resetRegisters_chip : s.resetRegisters.chip = s.chip := rfl
@[simp] theorem resetRegisters_irqEn : s.resetRegisters.irqEn = false := rfl
@[simp] theorem resetRegisters_busy : s.resetRegisters.busy = false := rfl
@[simp] theorem resetRegisters_done : s.resetRegisters.done = false := rfl
@[simp] theorem resetRegisters_err : s.resetRegisters.err = false := rfl
@[simp] theorem resetRegisters_kbValid : s.resetRegisters.kbValid = false := rfl
@[simp] theorem resetRegisters_cmd : s.resetRegisters.cmd = 0 := rfl
@[simp] theorem resetRegisters_src : s.resetRegisters.src = 0 := rfl
@[simp] theorem resetRegisters_dst : s.resetRegisters.dst = 0 := rfl
@[simp] theorem resetRegisters_len : s.resetRegisters.len = 0 := rfl
@[simp] theorem resetRegisters_outLen : s.resetRegisters.outLen = 0 := rfl
@[simp] theorem resetRegisters_streamPos : s.resetRegisters.streamPos = 1 := rfl
@[simp] theorem resetRegisters_errCode : s.resetRegisters.errCode = 0 := rfl
@[simp] theorem resetRegisters_errInfo : s.resetRegisters.errInfo = 0 := rfl
@[simp] theorem resetRegisters_keybox : s.resetRegisters.keybox = s.freeKeybox := rfl
@[simp] theorem resetRegisters_mem : s.resetRegisters.mem = s.mem := rfl
@[simp] theorem resetRegisters_cache : s.resetRegisters.cache = s.cache := rfl
@[simp] theorem resetRegisters_host : s.resetRegisters.host = s.host := rfl
@[simp] theorem resetRegisters_turns : s.resetRegisters.turns = s.turns := rfl
@[simp] theorem resetRegisters_answer : s.resetRegisters.answer = s.answer := rfl
@[simp] theorem resetRegisters_draws : s.resetRegisters.draws = s.draws := rfl

/-! ### startWord -/

@[simp] theorem startWord_chip (w : Word) : (s.startWord w).chip = s.chip := rfl
@[simp] theorem startWord_irqEn (w : Word) : (s.startWord w).irqEn = s.irqEn := rfl
@[simp] theorem startWord_busy (w : Word) : (s.startWord w).busy = true := rfl
@[simp] theorem startWord_done (w : Word) : (s.startWord w).done = false := rfl
@[simp] theorem startWord_err (w : Word) : (s.startWord w).err = false := rfl
@[simp] theorem startWord_kbValid (w : Word) : (s.startWord w).kbValid = s.kbValid := rfl
@[simp] theorem startWord_cmd (w : Word) : (s.startWord w).cmd = w := rfl
@[simp] theorem startWord_src (w : Word) : (s.startWord w).src = s.src := rfl
@[simp] theorem startWord_dst (w : Word) : (s.startWord w).dst = s.dst := rfl
@[simp] theorem startWord_len (w : Word) : (s.startWord w).len = s.len := rfl
@[simp] theorem startWord_outLen (w : Word) : (s.startWord w).outLen = 0 := rfl
@[simp] theorem startWord_streamPos (w : Word) : (s.startWord w).streamPos = s.streamPos := rfl
@[simp] theorem startWord_errCode (w : Word) : (s.startWord w).errCode = 0 := rfl
@[simp] theorem startWord_errInfo (w : Word) : (s.startWord w).errInfo = 0 := rfl
@[simp] theorem startWord_keybox (w : Word) : (s.startWord w).keybox = s.keybox := rfl
@[simp] theorem startWord_mem (w : Word) : (s.startWord w).mem = s.mem := rfl
@[simp] theorem startWord_cache (w : Word) : (s.startWord w).cache = s.cache := rfl
@[simp] theorem startWord_host (w : Word) : (s.startWord w).host = s.host := rfl
@[simp] theorem startWord_turns (w : Word) : (s.startWord w).turns = .engine :: s.turns := rfl
@[simp] theorem startWord_answer (w : Word) : (s.startWord w).answer = s.answer := rfl
@[simp] theorem startWord_draws (w : Word) : (s.startWord w).draws = s.draws := rfl

/-! ### setMark: only the cache marks -/

@[simp] theorem setMark_chip (a : Nat) (k : CacheMark) : (s.setMark a k).chip = s.chip := by unfold State.setMark; split <;> rfl
@[simp] theorem setMark_irqEn (a : Nat) (k : CacheMark) : (s.setMark a k).irqEn = s.irqEn := by unfold State.setMark; split <;> rfl
@[simp] theorem setMark_busy (a : Nat) (k : CacheMark) : (s.setMark a k).busy = s.busy := by unfold State.setMark; split <;> rfl
@[simp] theorem setMark_done (a : Nat) (k : CacheMark) : (s.setMark a k).done = s.done := by unfold State.setMark; split <;> rfl
@[simp] theorem setMark_err (a : Nat) (k : CacheMark) : (s.setMark a k).err = s.err := by unfold State.setMark; split <;> rfl
@[simp] theorem setMark_kbValid (a : Nat) (k : CacheMark) : (s.setMark a k).kbValid = s.kbValid := by unfold State.setMark; split <;> rfl
@[simp] theorem setMark_cmd (a : Nat) (k : CacheMark) : (s.setMark a k).cmd = s.cmd := by unfold State.setMark; split <;> rfl
@[simp] theorem setMark_src (a : Nat) (k : CacheMark) : (s.setMark a k).src = s.src := by unfold State.setMark; split <;> rfl
@[simp] theorem setMark_dst (a : Nat) (k : CacheMark) : (s.setMark a k).dst = s.dst := by unfold State.setMark; split <;> rfl
@[simp] theorem setMark_len (a : Nat) (k : CacheMark) : (s.setMark a k).len = s.len := by unfold State.setMark; split <;> rfl
@[simp] theorem setMark_outLen (a : Nat) (k : CacheMark) : (s.setMark a k).outLen = s.outLen := by unfold State.setMark; split <;> rfl
@[simp] theorem setMark_streamPos (a : Nat) (k : CacheMark) : (s.setMark a k).streamPos = s.streamPos := by unfold State.setMark; split <;> rfl
@[simp] theorem setMark_errCode (a : Nat) (k : CacheMark) : (s.setMark a k).errCode = s.errCode := by unfold State.setMark; split <;> rfl
@[simp] theorem setMark_errInfo (a : Nat) (k : CacheMark) : (s.setMark a k).errInfo = s.errInfo := by unfold State.setMark; split <;> rfl
@[simp] theorem setMark_keybox (a : Nat) (k : CacheMark) : (s.setMark a k).keybox = s.keybox := by unfold State.setMark; split <;> rfl
@[simp] theorem setMark_mem (a : Nat) (k : CacheMark) : (s.setMark a k).mem = s.mem := by unfold State.setMark; split <;> rfl
@[simp] theorem setMark_host (a : Nat) (k : CacheMark) : (s.setMark a k).host = s.host := by unfold State.setMark; split <;> rfl
@[simp] theorem setMark_turns (a : Nat) (k : CacheMark) : (s.setMark a k).turns = s.turns := by unfold State.setMark; split <;> rfl
@[simp] theorem setMark_answer (a : Nat) (k : CacheMark) : (s.setMark a k).answer = s.answer := by unfold State.setMark; split <;> rfl
@[simp] theorem setMark_draws (a : Nat) (k : CacheMark) : (s.setMark a k).draws = s.draws := by unfold State.setMark; split <;> rfl

/-! ### dmaWriteByte: only memory and the cache marks -/

@[simp] theorem dmaWriteByte_chip (a : Nat) (b : Byte) : (s.dmaWriteByte a b).chip = s.chip := by simp [State.dmaWriteByte]
@[simp] theorem dmaWriteByte_irqEn (a : Nat) (b : Byte) : (s.dmaWriteByte a b).irqEn = s.irqEn := by simp [State.dmaWriteByte]
@[simp] theorem dmaWriteByte_busy (a : Nat) (b : Byte) : (s.dmaWriteByte a b).busy = s.busy := by simp [State.dmaWriteByte]
@[simp] theorem dmaWriteByte_done (a : Nat) (b : Byte) : (s.dmaWriteByte a b).done = s.done := by simp [State.dmaWriteByte]
@[simp] theorem dmaWriteByte_err (a : Nat) (b : Byte) : (s.dmaWriteByte a b).err = s.err := by simp [State.dmaWriteByte]
@[simp] theorem dmaWriteByte_kbValid (a : Nat) (b : Byte) : (s.dmaWriteByte a b).kbValid = s.kbValid := by simp [State.dmaWriteByte]
@[simp] theorem dmaWriteByte_cmd (a : Nat) (b : Byte) : (s.dmaWriteByte a b).cmd = s.cmd := by simp [State.dmaWriteByte]
@[simp] theorem dmaWriteByte_src (a : Nat) (b : Byte) : (s.dmaWriteByte a b).src = s.src := by simp [State.dmaWriteByte]
@[simp] theorem dmaWriteByte_dst (a : Nat) (b : Byte) : (s.dmaWriteByte a b).dst = s.dst := by simp [State.dmaWriteByte]
@[simp] theorem dmaWriteByte_len (a : Nat) (b : Byte) : (s.dmaWriteByte a b).len = s.len := by simp [State.dmaWriteByte]
@[simp] theorem dmaWriteByte_outLen (a : Nat) (b : Byte) : (s.dmaWriteByte a b).outLen = s.outLen := by simp [State.dmaWriteByte]
@[simp] theorem dmaWriteByte_streamPos (a : Nat) (b : Byte) : (s.dmaWriteByte a b).streamPos = s.streamPos := by simp [State.dmaWriteByte]
@[simp] theorem dmaWriteByte_errCode (a : Nat) (b : Byte) : (s.dmaWriteByte a b).errCode = s.errCode := by simp [State.dmaWriteByte]
@[simp] theorem dmaWriteByte_errInfo (a : Nat) (b : Byte) : (s.dmaWriteByte a b).errInfo = s.errInfo := by simp [State.dmaWriteByte]
@[simp] theorem dmaWriteByte_keybox (a : Nat) (b : Byte) : (s.dmaWriteByte a b).keybox = s.keybox := by simp [State.dmaWriteByte]
@[simp] theorem dmaWriteByte_host (a : Nat) (b : Byte) : (s.dmaWriteByte a b).host = s.host := by simp [State.dmaWriteByte]
@[simp] theorem dmaWriteByte_turns (a : Nat) (b : Byte) : (s.dmaWriteByte a b).turns = s.turns := by simp [State.dmaWriteByte]
@[simp] theorem dmaWriteByte_answer (a : Nat) (b : Byte) : (s.dmaWriteByte a b).answer = s.answer := by simp [State.dmaWriteByte]
@[simp] theorem dmaWriteByte_draws (a : Nat) (b : Byte) : (s.dmaWriteByte a b).draws = s.draws := by simp [State.dmaWriteByte]
@[simp] theorem dmaWriteByte_mem (a : Nat) (b : Byte) :
    (s.dmaWriteByte a b).mem = s.mem.write a (if (s.mark a).unflushed then s.freeOutput a else b) := rfl
@[simp] theorem dmaWriteByte_cache (a : Nat) (b : Byte) : (s.dmaWriteByte a b).cache = (s.setMark a (s.mark a).afterEngineWrite).cache := rfl

/-! ### dmaWrite: only memory and the cache marks -/

/-- The state after a block write differs from the one before in memory and cache marks only. -/
theorem dmaWrite_eq (s : State) (a : Nat) (bs : List Byte) :
    s.dmaWrite a bs = { s with mem := (s.dmaWrite a bs).mem, cache := (s.dmaWrite a bs).cache } := by
  induction bs generalizing s a with
  | nil => rfl
  | cons b rest ih =>
    have h : s.dmaWriteByte a b = { s with mem := (s.dmaWriteByte a b).mem, cache := (s.dmaWriteByte a b).cache } := by
      simp only [State.dmaWriteByte, State.setMark]; split <;> rfl
    simp only [State.dmaWrite]
    rw [ih, h]

@[simp] theorem dmaWrite_chip (a : Nat) (bs : List Byte) : (s.dmaWrite a bs).chip = s.chip := by rw [dmaWrite_eq]
@[simp] theorem dmaWrite_irqEn (a : Nat) (bs : List Byte) : (s.dmaWrite a bs).irqEn = s.irqEn := by rw [dmaWrite_eq]
@[simp] theorem dmaWrite_busy (a : Nat) (bs : List Byte) : (s.dmaWrite a bs).busy = s.busy := by rw [dmaWrite_eq]
@[simp] theorem dmaWrite_done (a : Nat) (bs : List Byte) : (s.dmaWrite a bs).done = s.done := by rw [dmaWrite_eq]
@[simp] theorem dmaWrite_err (a : Nat) (bs : List Byte) : (s.dmaWrite a bs).err = s.err := by rw [dmaWrite_eq]
@[simp] theorem dmaWrite_kbValid (a : Nat) (bs : List Byte) : (s.dmaWrite a bs).kbValid = s.kbValid := by rw [dmaWrite_eq]
@[simp] theorem dmaWrite_cmd (a : Nat) (bs : List Byte) : (s.dmaWrite a bs).cmd = s.cmd := by rw [dmaWrite_eq]
@[simp] theorem dmaWrite_src (a : Nat) (bs : List Byte) : (s.dmaWrite a bs).src = s.src := by rw [dmaWrite_eq]
@[simp] theorem dmaWrite_dst (a : Nat) (bs : List Byte) : (s.dmaWrite a bs).dst = s.dst := by rw [dmaWrite_eq]
@[simp] theorem dmaWrite_len (a : Nat) (bs : List Byte) : (s.dmaWrite a bs).len = s.len := by rw [dmaWrite_eq]
@[simp] theorem dmaWrite_outLen (a : Nat) (bs : List Byte) : (s.dmaWrite a bs).outLen = s.outLen := by rw [dmaWrite_eq]
@[simp] theorem dmaWrite_streamPos (a : Nat) (bs : List Byte) : (s.dmaWrite a bs).streamPos = s.streamPos := by rw [dmaWrite_eq]
@[simp] theorem dmaWrite_errCode (a : Nat) (bs : List Byte) : (s.dmaWrite a bs).errCode = s.errCode := by rw [dmaWrite_eq]
@[simp] theorem dmaWrite_errInfo (a : Nat) (bs : List Byte) : (s.dmaWrite a bs).errInfo = s.errInfo := by rw [dmaWrite_eq]
@[simp] theorem dmaWrite_keybox (a : Nat) (bs : List Byte) : (s.dmaWrite a bs).keybox = s.keybox := by rw [dmaWrite_eq]
@[simp] theorem dmaWrite_host (a : Nat) (bs : List Byte) : (s.dmaWrite a bs).host = s.host := by rw [dmaWrite_eq]
@[simp] theorem dmaWrite_turns (a : Nat) (bs : List Byte) : (s.dmaWrite a bs).turns = s.turns := by rw [dmaWrite_eq]
@[simp] theorem dmaWrite_answer (a : Nat) (bs : List Byte) : (s.dmaWrite a bs).answer = s.answer := by rw [dmaWrite_eq]
@[simp] theorem dmaWrite_draws (a : Nat) (bs : List Byte) : (s.dmaWrite a bs).draws = s.draws := by rw [dmaWrite_eq]

end Sys2Proof.Machine
end

