-- ==== Sys2Proof/Laws/Memory.lean ====
section
/-! SUPPORT. Read-after-write, frame and canonical form of sparse storage, data memory and cache marks, and of the engine's block reads and
writes of memory. -/

namespace Sys2Proof.Machine

/-! ### Sparse storage -/

section Sparse

variable {α : Type}

@[simp] theorem sparseGet_nil (d : α) (a : Nat) : sparseGet d [] a = d := rfl

theorem sparseGet_insert (d : α) (m : List (Nat × α)) (a b : Nat) (v : α) :
    sparseGet d (sparseInsert m a v) b = if b = a then v else sparseGet d m b := by
  induction m with
  | nil => simp [sparseInsert, sparseGet, eq_comm]
  | cons c rest ih =>
    simp only [sparseInsert]
    split
    · simp [sparseGet, eq_comm]
    · split
      · rename_i h; subst h; by_cases hb : b = c.1 <;> simp [sparseGet, hb, eq_comm]
      · rename_i h1 h2
        simp only [sparseGet, ih]
        by_cases hb : c.1 = b
        · subst hb; simp [h2]
        · simp [hb]

theorem sparseGet_erase (d : α) (m : List (Nat × α)) (a b : Nat) :
    sparseGet d (m.filter (fun c => c.1 ≠ a)) b = if b = a then d else sparseGet d m b := by
  induction m with
  | nil => simp
  | cons c rest ih =>
    by_cases hc : c.1 = a
    · rw [List.filter_cons_of_neg (by simp [hc]), ih]
      by_cases hb : b = a
      · simp [hb]
      · have : ¬ c.1 = b := fun h => hb (h.symm.trans hc)
        simp [sparseGet, hb, this]
    · rw [List.filter_cons_of_pos (by simp [hc])]
      simp only [sparseGet, ih]
      by_cases hb : c.1 = b
      · subst hb; simp [hc]
      · simp [hb]

theorem sparseGet_set [DecidableEq α] (d : α) (m : List (Nat × α)) (a b : Nat) (v : α) :
    sparseGet d (sparseSet d m a v) b = if b = a then v else sparseGet d m b := by
  unfold sparseSet
  split
  · rename_i h; subst h; exact sparseGet_erase _ m a b
  · exact sparseGet_insert d m a b v

theorem mem_sparseInsert {m : List (Nat × α)} {a : Nat} {v : α} {c : Nat × α} (h : c ∈ sparseInsert m a v) :
    c = (a, v) ∨ c ∈ m := by
  induction m with
  | nil => simpa [sparseInsert] using h
  | cons x rest ih =>
    simp only [sparseInsert] at h
    split at h
    · simpa using h
    · split at h
      · rcases List.mem_cons.1 h with h | h
        · exact .inl h
        · exact .inr (List.mem_cons_of_mem _ h)
      · rcases List.mem_cons.1 h with h | h
        · exact .inr (h ▸ List.mem_cons_self)
        · exact (ih h).imp_right (List.mem_cons_of_mem _)

theorem sparseInsert_pairwise {m : List (Nat × α)} (a : Nat) (v : α) (h : m.Pairwise (fun x y => x.1 < y.1)) :
    (sparseInsert m a v).Pairwise (fun x y => x.1 < y.1) := by
  induction m with
  | nil => simp [sparseInsert]
  | cons x rest ih =>
    obtain ⟨hx, hr⟩ := List.pairwise_cons.1 h
    simp only [sparseInsert]
    split
    · rename_i ha
      refine List.pairwise_cons.2 ⟨fun c hc => ?_, h⟩
      rcases List.mem_cons.1 hc with rfl | hc
      · exact ha
      · exact ha.trans (hx c hc)
    · split
      · rename_i _ hxa
        refine List.pairwise_cons.2 ⟨fun c hc => ?_, hr⟩
        simpa [hxa] using hx c hc
      · refine List.pairwise_cons.2 ⟨fun c hc => ?_, ih hr⟩
        rcases mem_sparseInsert hc with rfl | hc
        · dsimp only; omega
        · exact hx c hc

theorem sparseWf_set [DecidableEq α] {d : α} {m : List (Nat × α)} (hm : sparseWf d m) {a : Nat} {v : α}
    (ha : a < addressSpace ∨ v = d) : sparseWf d (sparseSet d m a v) := by
  unfold sparseSet
  split
  · exact ⟨hm.1.filter _, fun c hc => hm.2 c (List.mem_filter.1 hc).1⟩
  · rename_i hv
    refine ⟨sparseInsert_pairwise a v hm.1, fun c hc => ?_⟩
    rcases mem_sparseInsert hc with rfl | hc
    · exact ⟨hv, ha.resolve_right hv⟩
    · exact hm.2 c hc

/-- In canonical form a key with a value other than the default is an address of the address space. -/
theorem sparseWf_key_lt {d : α} {m : List (Nat × α)} (hm : sparseWf d m) {a : Nat} (h : sparseGet d m a ≠ d) :
    a < addressSpace := by
  induction m with
  | nil => simp at h
  | cons c rest ih =>
    simp only [sparseGet] at h
    split at h
    · rename_i hc; exact hc ▸ (hm.2 c List.mem_cons_self).2
    · exact ih ⟨(List.pairwise_cons.1 hm.1).2, fun x hx => hm.2 x (List.mem_cons_of_mem _ hx)⟩ h

end Sparse

/-! ### Data memory -/

@[simp] theorem read_empty (a : Nat) : Memory.read [] a = Config.unlistedByte := rfl

/-- What a byte reads as after a write: the byte written at its address, the old byte elsewhere. -/
theorem read_write (m : Memory) (a x : Nat) (b : Byte) : (m.write a b).read x = if x = a then b else m.read x :=
  sparseGet_set _ m a x b

@[simp] theorem read_write_same (m : Memory) (a : Nat) (b : Byte) : (m.write a b).read a = b := by simp [read_write]

theorem read_write_ne (m : Memory) {a x : Nat} (b : Byte) (h : x ≠ a) : (m.write a b).read x = m.read x := by
  simp [read_write, h]

theorem write_wf {m : Memory} (hm : m.wf) {a : Nat} (ha : a < addressSpace) (b : Byte) : (m.write a b).wf :=
  sparseWf_set hm (.inl ha)

/-! ### Cache marks -/

/-- A byte written back stays so when the engine writes it, and one not written back stays so too. -/
@[simp] theorem unflushed_afterEngineWrite (k : CacheMark) : k.afterEngineWrite.unflushed = k.unflushed := by cases k <;> rfl

theorem afterEngineWrite_of_flushed {k : CacheMark} (h : k.unflushed = false) : k.afterEngineWrite = .stale := by
  simp [CacheMark.afterEngineWrite, h]

@[simp] theorem unflushed_afterClean (k : CacheMark) : k.afterClean.unflushed = false := by cases k <;> rfl

@[simp] theorem outdated_afterClean (k : CacheMark) : k.afterClean.outdated = k.outdated := by cases k <;> rfl

/-- On a coherent platform every byte is synced. -/
theorem mark_coherent {s : State} (hc : s.chip.dmaCoherent = true) (a : Nat) : s.mark a = .synced := by simp [State.mark, hc]

theorem get_put (c : CacheMarks) (a x : Nat) (k : CacheMark) : (c.put a k).get x = if x = a then k else c.get x :=
  sparseGet_set _ c a x k

theorem put_wf {c : CacheMarks} (hc : c.wf) {a : Nat} {k : CacheMark} (ha : a < addressSpace ∨ k = .synced) : (c.put a k).wf :=
  sparseWf_set hc ha

theorem setMark_cache_wf {s : State} (hs : s.cache.wf) {a : Nat} {k : CacheMark} (ha : a < addressSpace ∨ k = .synced) :
    (s.setMark a k).cache.wf := by
  unfold State.setMark
  split
  · exact hs
  · exact put_wf hs ha

theorem mark_setMark (s : State) (a x : Nat) (k : CacheMark) :
    (s.setMark a k).mark x = if x = a ∧ s.chip.dmaCoherent = false then k else s.mark x := by
  unfold State.setMark State.mark
  split
  · simp_all
  · simp_all [get_put]

/-- A byte that is not synced is an address of the address space. -/
theorem mark_key_lt {s : State} (hs : s.cache.wf) {a : Nat} (h : s.mark a ≠ .synced) : a < addressSpace := by
  unfold State.mark at h
  split at h
  · exact absurd rfl h
  · exact sparseWf_key_lt hs h

/-! ### The engine's block accesses -/

@[simp] theorem length_dmaRead (s : State) (a n : Nat) : (s.dmaRead a n).length = n := by simp [State.dmaRead]

@[simp] theorem length_input (s : State) : s.input.length = s.len.toNat := by simp [State.input]

@[simp] theorem length_memInput (s : State) : s.memInput.length = s.len.toNat := by simp [State.memInput]

/-- Over maintained memory the engine reads the bytes that memory holds. -/
theorem dmaRead_eq_of_maintained {s : State} {a n : Nat} (h : ∀ k, k < n → (s.mark (a + k)).unflushed = false) :
    s.dmaRead a n = (List.range n).map fun k => s.mem.read (a + k) := by
  unfold State.dmaRead
  rw [List.range'_eq_map_range, List.map_map]
  refine List.map_congr_left fun k hk => ?_
  simp [State.dmaReadByte, h k (List.mem_range.1 hk)]

theorem input_eq_memInput {s : State} {m : Nat} (h : s.Maintained s.len.toNat m) : s.input = s.memInput :=
  dmaRead_eq_of_maintained h.1

/-- Outside the addresses of a block write memory is unchanged. -/
theorem dmaWrite_read_outside (s : State) (d : Nat) (bs : List Byte) {a : Nat} (h : a < d ∨ d + bs.length ≤ a) :
    (s.dmaWrite d bs).mem.read a = s.mem.read a := by
  induction bs generalizing s d with
  | nil => rfl
  | cons b rest ih =>
    simp only [List.length_cons] at h
    rw [State.dmaWrite, ih _ _ (by omega), dmaWriteByte_mem, read_write_ne _ _ (by omega)]

theorem mark_dmaWriteByte (s : State) (a x : Nat) (b : Byte) (h : x ≠ a) : (s.dmaWriteByte a b).mark x = s.mark x := by
  have : (s.dmaWriteByte a b).mark x = (s.setMark a (s.mark a).afterEngineWrite).mark x := rfl
  simp [this, mark_setMark, h]

/-- Over maintained memory a block write leaves exactly its bytes. -/
theorem dmaWrite_read (s : State) (d : Nat) (bs : List Byte) (hm : ∀ k, k < bs.length → (s.mark (d + k)).unflushed = false) (a : Nat) :
    (s.dmaWrite d bs).mem.read a = if d ≤ a ∧ a < d + bs.length then bs.getD (a - d) 0 else s.mem.read a := by
  induction bs generalizing s d with
  | nil => simp [State.dmaWrite]
  | cons b rest ih =>
    have hb : (s.mark d).unflushed = false := by simpa using hm 0 (by simp)
    have hrest : ∀ k, k < rest.length → ((s.dmaWriteByte d b).mark (d + 1 + k)).unflushed = false := fun k hk => by
      rw [mark_dmaWriteByte _ _ _ _ (by omega)]
      simpa [Nat.add_assoc, Nat.add_comm 1 k] using hm (k + 1) (by simp; omega)
    rw [State.dmaWrite, ih _ _ hrest]
    simp only [List.length_cons, dmaWriteByte_mem, hb, Bool.false_eq_true, if_false]
    rcases Nat.lt_trichotomy a d with h | h | h
    · rw [if_neg (by omega), if_neg (by omega), read_write_ne _ _ (by omega)]
    · subst h; rw [if_neg (by omega), if_pos (by omega)]; simp
    · by_cases hlt : a < d + 1 + rest.length
      · rw [if_pos (by omega), if_pos (by omega)]
        obtain ⟨k, rfl⟩ : ∃ k, a = d + 1 + k := ⟨a - (d + 1), by omega⟩
        simp [show d + 1 + k - d = k + 1 by omega]
      · rw [if_neg (by omega), if_neg (by omega), read_write_ne _ _ (by omega)]

/-- A block write makes the host's copies of its bytes out of date, on a platform that is not coherent, and no other. -/
theorem mark_dmaWrite (s : State) (d : Nat) (bs : List Byte) (x : Nat) :
    (s.dmaWrite d bs).mark x =
      if d ≤ x ∧ x < d + bs.length ∧ s.chip.dmaCoherent = false then (s.mark x).afterEngineWrite else s.mark x := by
  induction bs generalizing s d with
  | nil => rw [if_neg (by simp; omega)]; rfl
  | cons b rest ih =>
    have hb : (s.dmaWriteByte d b).mark x = (s.setMark d (s.mark d).afterEngineWrite).mark x := rfl
    rw [State.dmaWrite, ih, hb, mark_setMark, dmaWriteByte_chip]
    simp only [List.length_cons]
    by_cases hc : s.chip.dmaCoherent = false
    · by_cases h1 : x = d
      · subst h1; rw [if_neg (by omega), if_pos ⟨rfl, hc⟩, if_pos ⟨by omega, by omega, hc⟩]
      · simp only [h1, hc, if_false, and_true]
        by_cases h2 : d + 1 ≤ x ∧ x < d + 1 + rest.length
        · rw [if_pos h2, if_pos (by omega)]
        · rw [if_neg h2, if_neg (by omega)]
    · simp [hc]

/-- On a coherent platform a block write touches no mark. -/
theorem dmaWrite_cache_coherent {s : State} (hc : s.chip.dmaCoherent = true) (d : Nat) (bs : List Byte) :
    (s.dmaWrite d bs).cache = s.cache := by
  induction bs generalizing s d with
  | nil => rfl
  | cons b rest ih =>
    rw [State.dmaWrite, ih (by simpa using hc), dmaWriteByte_cache]
    simp [State.setMark, hc]

/-- A block write of the engine neither writes the host's bytes back nor makes any unwritten. -/
@[simp] theorem unflushed_dmaWrite (s : State) (x d : Nat) (bs : List Byte) :
    ((s.dmaWrite d bs).mark x).unflushed = (s.mark x).unflushed := by
  rw [mark_dmaWrite]; split <;> simp

theorem dmaWrite_mem_wf {s : State} (hs : s.mem.wf) {d : Nat} {bs : List Byte} (h : d + bs.length ≤ addressSpace ∨ bs = []) :
    (s.dmaWrite d bs).mem.wf := by
  induction bs generalizing s d with
  | nil => exact hs
  | cons b rest ih =>
    have h' : d + (rest.length + 1) ≤ addressSpace := by simpa using h
    exact ih (write_wf hs (by omega) _) (.inl (by omega))

theorem dmaWrite_cache_wf {s : State} (hs : s.cache.wf) {d : Nat} {bs : List Byte} (h : d + bs.length ≤ addressSpace ∨ bs = []) :
    (s.dmaWrite d bs).cache.wf := by
  induction bs generalizing s d with
  | nil => exact hs
  | cons b rest ih =>
    have h' : d + (rest.length + 1) ≤ addressSpace := by simpa using h
    exact ih (s := s.dmaWriteByte d b) (by rw [dmaWriteByte_cache]; exact setMark_cache_wf hs (.inl (by omega))) (.inl (by omega))

end Sys2Proof.Machine
end

