-- ==== Sys2Proof/Laws/Ops.lean ====
section
/-! SUPPORT. What the shared operations can do, said once: the window checks, `Precheck`, the command frame, every command, and the step. -/

namespace Sys2Proof.Machine

/-! ### Windows -/

/-- The search for a bad address finds none exactly when the whole window is admitted. -/
theorem firstBad_none_iff (c : Chip) (k : AccessKind) (base size : Nat) :
    firstBad c k base size = none ↔ ∀ j, j < size → c.admits k (base + j) = true := by
  simp only [firstBad, List.find?_eq_none, List.mem_range'_1, Bool.not_eq_true', Bool.not_eq_false]
  constructor
  · intro h j hj; simpa using h (base + j) ⟨by omega, by omega⟩
  · intro h a ha; simpa [show base + (a - base) = a by omega] using h (a - base) (by omega)

/-- What the window checks of 60_exceptions.md R201 let pass. -/
theorem windowCheck_none_iff (i : Instr) (s : State) :
    windowCheck i s = none ↔
      inRange i s = true ∧ overlaps i s = false ∧ firstBadRead i s = none ∧ firstBadWrite i s = none := by
  unfold windowCheck
  cases inRange i s <;> cases overlaps i s <;> cases firstBadRead i s <;> cases firstBadWrite i s <;> simp

theorem inRange_iff (i : Instr) (s : State) :
    inRange i s = true ↔ s.src.toNat + inSize i s ≤ 2 ^ 32 ∧ s.dst.toNat + outSize i s ≤ 2 ^ 32 := by
  simp [inRange, addressSpace]

/-- `Overlap` of 40_control.md R104. -/
theorem overlaps_iff (i : Instr) (s : State) :
    overlaps i s = true ↔
      0 < inSize i s ∧ 0 < outSize i s ∧ s.src ≠ s.dst ∧ s.src.toNat < s.dst.toNat + outSize i s ∧
        s.dst.toNat < s.src.toNat + inSize i s := by
  simp [overlaps, and_assoc]

theorem windowsPlain_iff (i : Instr) (s : State) :
    windowsPlain i s = true ↔
      (∀ j, j < inSize i s → s.chip.plain (s.src.toNat + j) = true) ∧
        ∀ j, j < outSize i s → s.chip.plain (s.dst.toNat + j) = true := by
  have h (p : Nat → Bool) (b n : Nat) : (List.range' b n).all p = true ↔ ∀ j, j < n → p (b + j) = true := by
    rw [List.all_eq_true]
    constructor
    · intro h j hj; exact h _ (List.mem_range'_1.2 ⟨by omega, by omega⟩)
    · intro h a ha
      obtain ⟨h1, h2⟩ := List.mem_range'_1.1 ha
      simpa [show b + (a - b) = a by omega] using h (a - b) (by omega)
  simp [windowsPlain, h]

/-- Good windows pass the window checks. -/
theorem WindowsGood.passes {i : Instr} {s : State} (h : s.WindowsGood (inSize i s) (outSize i s)) :
    windowCheck i s = none ∧ windowsPlain i s = true := by
  obtain ⟨hs, hd, ho, hr, hw⟩ := h
  refine ⟨(windowCheck_none_iff i s).2 ⟨(inRange_iff i s).2 ⟨hs, hd⟩, ?_, ?_, ?_⟩, ?_⟩
  · rw [← Bool.not_eq_true, overlaps_iff]
    rintro ⟨h1, h2, h3, h4, h5⟩
    rcases ho with h | h | h | h | h
    · omega
    · omega
    · exact h3 h
    · omega
    · omega
  · exact (firstBad_none_iff _ _ _ _).2 fun j hj => (hr j hj).1
  · exact (firstBad_none_iff _ _ _ _).2 fun j hj => (hw j hj).1
  · exact (windowsPlain_iff i s).2 ⟨fun j hj => (hr j hj).2, fun j hj => (hw j hj).2⟩

/-- A command that passed `Precheck` has its windows in the address space. -/
theorem precheck_none_inRange {i : Instr} {s : State} (hi : i ≠ .nop) (h : precheck i s = none) : inRange i s = true := by
  unfold precheck at h
  rw [if_neg hi] at h
  split at h
  · cases h
  · split at h
    · cases h
    · split at h
      · cases h
      · exact ((windowCheck_none_iff i s).1 h).1

/-! ### The command frame -/

/-- Everything `runCommand` can do when it answers a next state. -/
theorem runCommand_cases {i : Instr} {body : State → List Byte → Except CmdError (List Byte)}
    {effect : State → List Byte → State} {s t : State} (h : runCommand i body effect s = .next t) :
    (∃ e, t = s.raise e ∧
        (precheck i s = some e ∨ precheck i s = none ∧ windowsPlain i s = true ∧ body s s.input = .error e)) ∨
      ∃ out, precheck i s = none ∧ windowsPlain i s = true ∧ body s s.input = .ok out ∧
        t = ((effect s s.input).dmaWrite s.dst.toNat out).complete out.length := by
  unfold runCommand at h
  split at h
  · rename_i e he
    exact .inl ⟨e, by simpa using h.symm, .inl he⟩
  · rename_i hp
    split at h
    · rename_i hw
      split at h
      · rename_i e he
        exact .inl ⟨e, by simpa using h.symm, .inr ⟨hp, hw, he⟩⟩
      · rename_i out ho
        exact .inr ⟨out, hp, hw, ho, by simpa using h.symm⟩
    · cases h

/-- A command that passes its checks and whose body has a result completes. -/
theorem runCommand_ok {i : Instr} {body : State → List Byte → Except CmdError (List Byte)}
    {effect : State → List Byte → State} {s : State} {out : List Byte} (hp : precheck i s = none) (hw : windowsPlain i s = true)
    (hb : body s s.input = .ok out) :
    runCommand i body effect s = .next (((effect s s.input).dmaWrite s.dst.toNat out).complete out.length) := by
  simp [runCommand, hp, hw, hb]

/-- A command whose check fails ends with that error. -/
theorem runCommand_precheck_error {i : Instr} {body : State → List Byte → Except CmdError (List Byte)}
    {effect : State → List Byte → State} {s : State} {e : CmdError} (hp : precheck i s = some e) :
    runCommand i body effect s = .next (s.raise e) := by
  simp [runCommand, hp]

/-- A command whose body fails ends with that error. -/
theorem runCommand_body_error {i : Instr} {body : State → List Byte → Except CmdError (List Byte)}
    {effect : State → List Byte → State} {s : State} {e : CmdError} (hp : precheck i s = none) (hw : windowsPlain i s = true)
    (hb : body s s.input = .error e) : runCommand i body effect s = .next (s.raise e) := by
  simp [runCommand, hp, hw, hb]

/-! ### Every command -/

/-- The body of each command with windows. -/
def bodyOf : Instr → State → List Byte → Except CmdError (List Byte)
  | .nop => fun _ _ => .ok []
  | .ecbDecryptCore => bodyEcbDecryptCore
  | .ecbDecryptMeta => bodyEcbDecryptMeta
  | .unpad => bodyUnpad
  | .keyboxBuild => bodyKeyboxBuild
  | .metaUnmask => bodyMetaUnmask
  | .metaDecrypt => bodyMetaDecrypt
  | .unwrapKey => bodyUnwrapKey
  | .streamDecipher => bodyStreamDecipher

/-- What each command writes of its own at success. -/
def effectOf : Instr → State → List Byte → State
  | .nop => noEffect
  | .ecbDecryptCore => noEffect
  | .ecbDecryptMeta => noEffect
  | .unpad => noEffect
  | .keyboxBuild => effectKeyboxBuild
  | .metaUnmask => noEffect
  | .metaDecrypt => noEffect
  | .unwrapKey => noEffect
  | .streamDecipher => effectStreamDecipher

/-- Every command but NOP runs in the frame. -/
theorem exec_eq_runCommand {i : Instr} (hi : i ≠ .nop) (s : State) : exec i s = runCommand i (bodyOf i) (effectOf i) s := by
  cases i
  · exact absurd rfl hi
  all_goals rfl

theorem removePadding_length {p out : List Byte} (h : removePadding p = .ok out) : out.length ≤ p.length := by
  unfold removePadding at h
  split at h
  · cases h
  · split at h
    · cases h
    · cases h; simp

@[simp] theorem length_ecbBlocks (cipher : Cipher) (key : Block) (n : Nat) (c : List Byte) :
    (ecbBlocks cipher key n c).length = 16 * n := by
  induction n generalizing c with
  | zero => rfl
  | succ n ih => simp [ecbBlocks, ih]; omega

theorem length_ecbDec_le (cipher : Cipher) (key : Block) (c : List Byte) : (ecbDec cipher key c).length ≤ c.length := by
  simp only [ecbDec, length_ecbBlocks]; omega

@[simp] theorem length_decipher (box : KeyBox) (p : Word) (bs : List Byte) : (decipher box p bs).length = bs.length := by
  induction bs generalizing p with
  | nil => rfl
  | cons b rest ih => simp [decipher, ih]

/-- A body's output fits the output window. -/
theorem bodyOf_length {i : Instr} {s : State} {input out : List Byte} (hl : input.length = s.len.toNat)
    (h : bodyOf i s input = .ok out) : out.length ≤ outSize i s := by
  cases i
  case nop => cases h; simp
  case ecbDecryptCore => cases h; simpa [outSize, ← hl] using length_ecbDec_le _ _ input
  case ecbDecryptMeta => cases h; simpa [outSize, ← hl] using length_ecbDec_le _ _ input
  case unpad => simpa [outSize, ← hl] using removePadding_length h
  case keyboxBuild => cases h; simp
  case metaUnmask => cases h; simp [outSize, ← hl]
  case metaDecrypt => simpa [outSize, ← hl] using (removePadding_length h).trans (length_ecbDec_le _ _ input)
  case unwrapKey =>
    simp only [bodyOf, bodyUnwrapKey] at h
    split at h
    · rename_i q hq
      cases h
      have h1 := removePadding_length hq
      have h2 := length_ecbDec_le s.chip.cipher s.chip.coreKey (input.map (· ^^^ Config.keyXor))
      simp only [List.length_map] at h2
      simp only [outSize, List.length_drop, ← hl]
      omega
    · cases h
  case streamDecipher => cases h; simp [outSize, ← hl]

/-- What a command's own effect changes: the key box, its validity and the stream position only. -/
theorem effectOf_eq (i : Instr) (s : State) (input : List Byte) :
    effectOf i s input = { s with keybox := (effectOf i s input).keybox, kbValid := (effectOf i s input).kbValid,
                                  streamPos := (effectOf i s input).streamPos } := by
  cases i <;> rfl

/-- Everything a command can do when it answers a next state: end with an error, or complete with an output that fits the output
window, which is in the address space. -/
theorem exec_cases {i : Instr} {s t : State} (h : exec i s = .next t) :
    (∃ e, t = s.raise e) ∨
      ∃ out, out.length ≤ outSize i s ∧ (s.dst.toNat + outSize i s ≤ addressSpace ∨ out = []) ∧
        bodyOf i s s.input = .ok out ∧ t = ((effectOf i s s.input).dmaWrite s.dst.toNat out).complete out.length := by
  by_cases hi : i = .nop
  · subst hi
    injection h with h
    exact .inr ⟨[], by simp, .inr rfl, rfl, h.symm⟩
  · rw [exec_eq_runCommand hi] at h
    rcases runCommand_cases h with ⟨e, he, -⟩ | ⟨out, hp, -, hb, ht⟩
    · exact .inl ⟨e, he⟩
    · have hl := bodyOf_length (length_input s) hb
      exact .inr ⟨out, hl, .inl ((inRange_iff i s).1 (precheck_none_inRange hi hp)).2, hb, ht⟩

/-! ### The step -/

/-- A step is the host's or the engine's, on the ticked state. -/
theorem step_cases (s : State) :
    (s.mover = .host ∧ step s = hostStep s.tick) ∨ (s.mover = .engine ∧ step s = engineStep s.tick) := by
  unfold step machineStep
  cases s.mover <;> simp

/-- Everything the engine's turn can be. -/
theorem engineStep_cases (s : State) :
    (s.busy = false ∧ engineStep s = .next s) ∨
      (s.busy = true ∧ ∃ i, decode s.cmd = .ok i ∧ engineStep s = exec i s) ∨
      (s.busy = true ∧ ∃ e, decode s.cmd = .error e ∧ engineStep s = .next (s.raise .illegalCmd)) := by
  unfold engineStep
  cases hb : s.busy
  · simp
  · cases hd : decode s.cmd <;> simp

/-- Everything the host's turn can be. -/
theorem hostStep_cases (s : State) :
    (s.host = [] ∧ hostStep s = .next s) ∨ ∃ op rest, s.host = op :: rest ∧ hostStep s = hostAccess op s := by
  unfold hostStep
  cases s.host <;> simp

/-- No command changes the platform's parameters. -/
theorem exec_chip {i : Instr} {s t : State} (h : exec i s = .next t) : t.chip = s.chip := by
  rcases exec_cases h with ⟨e, rfl⟩ | ⟨out, -, -, -, rfl⟩
  · rfl
  · rw [complete_chip, dmaWrite_chip, effectOf_eq]

/-! ### Reset -/

theorem mem_abortWindow {s : State} {a : Nat} (h : a ∈ s.abortWindow) : s.runningOutput a = true := by
  unfold State.abortWindow at h
  unfold State.runningOutput
  split at h
  · rename_i i hi
    have := List.mem_range'_1.1 h
    simp only [hi, inOutput, Bool.and_eq_true, decide_eq_true_eq]
    omega
  · simp at h

/-- Outside the running command's output window no byte is aborted. -/
theorem outside_abortWindow {s : State} {a : Nat} (h : s.runningOutput a = false) :
    a < s.dst.toNat ∨ s.dst.toNat + (s.abortWindow.map s.freeAborted).length ≤ a := by
  by_contra hc
  have : a ∈ s.abortWindow := by
    revert hc
    unfold State.abortWindow
    split
    · intro hc
      simp only [List.length_map, List.length_range'] at hc
      exact List.mem_range'_1.2 (by omega)
    · intro hc; simp at hc; omega
  simp [mem_abortWindow this] at h

/-- A reset leaves memory outside the running command's output window as it was (70_reset_and_hazards.md R242, R243). -/
theorem resetEngine_read {s : State} {a : Nat} (h : s.runningOutput a = false) : s.resetEngine.mem.read a = s.mem.read a :=
  dmaWrite_read_outside _ _ _ (outside_abortWindow h)

/-- A reset leaves the cache marks outside the running command's output window as they were (assumption 7). -/
theorem resetEngine_mark {s : State} {a : Nat} (h : s.runningOutput a = false) : s.resetEngine.mark a = s.mark a := by
  have hm : s.resetEngine.mark a = s.abort.mark a := rfl
  rw [hm, State.abort, mark_dmaWrite, if_neg]
  have := outside_abortWindow h
  omega

theorem abortWindow_fits (s : State) :
    s.dst.toNat + (s.abortWindow.map s.freeAborted).length ≤ addressSpace ∨ s.abortWindow.map s.freeAborted = [] := by
  unfold State.abortWindow
  split
  · left
    have : s.dst.toNat < addressSpace := s.dst.isLt
    simp only [List.length_map, List.length_range']
    omega
  · right; rfl

theorem resetEngine_mem_wf {s : State} (h : s.mem.wf) : s.resetEngine.mem.wf := dmaWrite_mem_wf h (abortWindow_fits s)

theorem resetEngine_cache_wf {s : State} (h : s.cache.wf) : s.resetEngine.cache.wf := dmaWrite_cache_wf h (abortWindow_fits s)

/-! ### Cache maintenance -/

/-- The mark of every byte after one byte is cleaned. -/
theorem mark_cleanByte (s : State) (a x : Nat) : (s.cleanByte a).mark x = if x = a then (s.mark x).afterClean else s.mark x := by
  have h : (s.cleanByte a).mark x = (s.setMark a (s.mark a).afterClean).mark x := rfl
  rw [h, mark_setMark]
  cases hc : s.chip.dmaCoherent
  · by_cases hx : x = a <;> simp [hx]
  · simp [mark_coherent hc, CacheMark.afterClean]

/-- A clean changes memory at a clashed byte only. -/
theorem cleanByte_read (s : State) {a x : Nat} (h : x ≠ a ∨ s.mark x ≠ .clashed) : (s.cleanByte a).mem.read x = s.mem.read x := by
  have hm : (s.cleanByte a).mem = if s.mark a = .clashed then s.mem.write a (s.freeOutput a) else s.mem := rfl
  rw [hm]
  split
  · rw [read_write_ne _ _ (by rintro rfl; simp_all)]
  · rfl

/-- The mark of every byte after one byte is invalidated. -/
theorem mark_invalidateByte (s : State) (a x : Nat) : (s.invalidateByte a).mark x = if x = a then .synced else s.mark x := by
  have h : (s.invalidateByte a).mark x = (s.setMark a .synced).mark x := rfl
  rw [h, mark_setMark]
  cases hc : s.chip.dmaCoherent
  · by_cases hx : x = a <;> simp [hx]
  · simp [mark_coherent hc]

/-- An invalidation changes memory only at a byte that was not written back. -/
theorem invalidateByte_read (s : State) {a x : Nat} (h : x ≠ a ∨ (s.mark x).unflushed = false) :
    (s.invalidateByte a).mem.read x = s.mem.read x := by
  have hm : (s.invalidateByte a).mem = if (s.mark a).unflushed then s.mem.write a (s.freeOutput a) else s.mem := rfl
  rw [hm]
  split
  · rw [read_write_ne _ _ (by rintro rfl; simp_all)]
  · rfl

theorem cleanByte_keeps {s : State} (hm : s.mem.wf) (hc : s.cache.wf) (a : Nat) :
    (s.cleanByte a).mem.wf ∧ (s.cleanByte a).cache.wf := by
  have hm' : (s.cleanByte a).mem = if s.mark a = .clashed then s.mem.write a (s.freeOutput a) else s.mem := rfl
  have hc' : (s.cleanByte a).cache = (s.setMark a (s.mark a).afterClean).cache := rfl
  rw [hm', hc']
  constructor
  · split
    · rename_i h; exact write_wf hm (mark_key_lt hc (by simp [h])) _
    · exact hm
  · by_cases h : s.mark a = .synced
    · exact setMark_cache_wf hc (.inr (by rw [h]; rfl))
    · exact setMark_cache_wf hc (.inl (mark_key_lt hc h))

theorem invalidateByte_keeps {s : State} (hm : s.mem.wf) (hc : s.cache.wf) (a : Nat) :
    (s.invalidateByte a).mem.wf ∧ (s.invalidateByte a).cache.wf := by
  have hm' : (s.invalidateByte a).mem = if (s.mark a).unflushed then s.mem.write a (s.freeOutput a) else s.mem := rfl
  refine ⟨?_, setMark_cache_wf hc (.inr rfl)⟩
  rw [hm']
  split
  · rename_i h
    exact write_wf hm (mark_key_lt hc fun h0 => by rw [h0] at h; cases h) _
  · exact hm

/-- Maintenance changes memory and the marks only. -/
theorem cleanByte_eq (s : State) (a : Nat) : s.cleanByte a = { s with mem := (s.cleanByte a).mem, cache := (s.cleanByte a).cache } := by
  simp only [State.cleanByte, State.setMark]; split <;> rfl

theorem invalidateByte_eq (s : State) (a : Nat) :
    s.invalidateByte a = { s with mem := (s.invalidateByte a).mem, cache := (s.invalidateByte a).cache } := by
  simp only [State.invalidateByte, State.setMark]; split <;> rfl

end Sys2Proof.Machine
end

