-- ==== Sys2Proof/Laws/HostBus.lean ====
section
/-! SUPPORT. What the host's accesses can do, said once for each. -/

namespace Sys2Proof.Machine

/-- Everything a write of CTRL can do (10_state.md R23, 40_control.md R100). -/
theorem writeCtrl_cases (s : State) (v : Word) :
    (ctrlSrst v = true ∧ s.writeCtrl v = s.resetEngine) ∨
      (ctrlSrst v = false ∧ ctrlStart v = true ∧ s.busy = false ∧
        s.writeCtrl v = (s.setIrqEn (ctrlIrqEn v)).acceptStart) ∨
      (ctrlSrst v = false ∧ (ctrlStart v = false ∨ s.busy = true) ∧ s.writeCtrl v = s.setIrqEn (ctrlIrqEn v)) := by
  unfold State.writeCtrl
  cases ctrlSrst v <;> cases ctrlStart v <;> cases s.busy <;> simp

/-- Everything a write of STATUS can do (10_state.md R24, 40_control.md R101). -/
theorem acknowledge_cases (s : State) (v : Word) :
    (s.busy = true ∧ s.acknowledge v = s) ∨
      (s.busy = false ∧
        s.acknowledge v = { s with done := s.done && !v.getLsbD 1, err := s.err && !v.getLsbD 2 }) := by
  unfold State.acknowledge
  cases s.busy <;> simp

/-- Everything a register write can do: a write of CTRL, of STATUS, of an operand register of an idle engine, or nothing. -/
theorem writeRegister_cases (s : State) (offset : BitVec 12) (v : Word) :
    s.writeRegister offset v = s.writeCtrl v ∨ s.writeRegister offset v = s.acknowledge v ∨ s.writeRegister offset v = s ∨
      (s.busy = false ∧
        s.writeRegister offset v = { s with cmd := (s.writeRegister offset v).cmd, src := (s.writeRegister offset v).src,
                                            dst := (s.writeRegister offset v).dst, len := (s.writeRegister offset v).len,
                                            streamPos := (s.writeRegister offset v).streamPos }) := by
  unfold State.writeRegister State.whenIdle
  split
  · exact .inl rfl
  split
  · exact .inr (.inl rfl)
  iterate 5
    split
    · split
      · exact .inr (.inr (.inl rfl))
      · rename_i hb
        exact .inr (.inr (.inr ⟨by simpa using hb, rfl⟩))
  exact .inr (.inr (.inl rfl))

/-- Everything a host read of a data byte can do (20_memory.md R64). -/
theorem hostMemRead_cases {s t : State} {a : Nat} (h : s.hostMemRead a = .next t) :
    s.runningOutput a = false ∧ ∃ r, t = { s with answer := r } := by
  unfold State.hostMemRead at h
  split at h
  · cases h
  · rename_i ho
    refine ⟨by simpa using ho, ?_⟩
    split at h
    · exact ⟨_, by injection h with h; exact h.symm⟩
    · split at h
      · cases h
      · exact ⟨_, by injection h with h; exact h.symm⟩

/-- Everything a host write of a data byte can do (20_memory.md R64). -/
theorem hostMemWrite_cases {s t : State} {a : Nat} {b : Byte} (h : s.hostMemWrite a b = .next t) :
    s.runningInput a = false ∧ s.runningOutput a = false ∧
      (t = { s with answer := .busError } ∨
        t = { s.setMark a .dirty with mem := s.mem.write a b, answer := .accepted }) := by
  unfold State.hostMemWrite at h
  split at h
  · cases h
  · rename_i ho
    simp only [Bool.or_eq_true, not_or, Bool.not_eq_true] at ho
    refine ⟨ho.1, ho.2, ?_⟩
    split at h
    · left; injection h with h; exact h.symm
    · split at h
      · cases h
      · right; injection h with h; exact h.symm

/-- Everything cache maintenance can do. -/
theorem maintain_cases {s t : State} {op : State → Nat → State} {a n : Nat} (h : s.maintain op a n = .next t) :
    t = { (List.range' a n).foldl op s with answer := .accepted } := by
  unfold State.maintain at h
  split at h
  · cases h
  · injection h with h; exact h.symm

/-- An invariant of each byte's maintenance is one of a whole range. -/
theorem foldl_keeps {P : State → Prop} {op : State → Nat → State} (hop : ∀ s a, P s → P (op s a)) {s : State} (hs : P s)
    (l : List Nat) : P (l.foldl op s) := by
  induction l generalizing s with
  | nil => exact hs
  | cons a rest ih => exact ih (hop s a hs)

/-- Maintenance of a range marks each of its bytes as the maintenance of one byte does, and no other. -/
theorem foldl_mark {op : State → Nat → State} {f : CacheMark → CacheMark}
    (hop : ∀ s a x, (op s a).mark x = if x = a then f (s.mark x) else s.mark x) (s : State) (a n x : Nat) :
    ((List.range' a n).foldl op s).mark x = if a ≤ x ∧ x < a + n then f (s.mark x) else s.mark x := by
  induction n generalizing s a with
  | zero => rw [if_neg (by omega)]; rfl
  | succ n ih =>
    rw [List.range'_succ, List.foldl_cons, ih, hop]
    by_cases h : x = a
    · rw [if_neg (by omega), if_pos h, if_pos (by omega)]
    · by_cases h' : a + 1 ≤ x ∧ x < a + 1 + n
      · rw [if_pos h', if_neg h, if_pos (by omega)]
      · rw [if_neg h', if_neg h, if_neg (by omega)]

/-- Maintenance of a range leaves a byte of memory that it does not reach, or whose mark lets it be. -/
theorem foldl_read {op : State → Nat → State} {f : CacheMark → CacheMark} {P : CacheMark → Prop}
    (hop : ∀ s a x, (op s a).mark x = if x = a then f (s.mark x) else s.mark x)
    (hread : ∀ s a x, x ≠ a ∨ P (s.mark x) → (op s a).mem.read x = s.mem.read x) (s : State) {a n x : Nat}
    (h : x < a ∨ a + n ≤ x ∨ P (s.mark x)) : ((List.range' a n).foldl op s).mem.read x = s.mem.read x := by
  induction n generalizing s a with
  | zero => rfl
  | succ n ih =>
    rw [List.range'_succ, List.foldl_cons]
    by_cases hx : x = a
    · have hP : P (s.mark x) := by
        rcases h with h | h | h
        · omega
        · omega
        · exact h
      rw [ih _ (.inl (by omega)), hread _ _ _ (.inr hP)]
    · rw [ih _ ?_, hread _ _ _ (.inl hx)]
      rw [hop, if_neg hx]
      rcases h with h | h | h
      · exact .inl (by omega)
      · exact .inr (.inl (by omega))
      · exact .inr (.inr h)

end Sys2Proof.Machine
end

