-- ==== Sys2Proof/Laws/PerInstr.lean ====
section
/-! SUPPORT. A statement about each command as syntax: its fields are legal and its word carries exactly its fields
(30_encoding.md R70, R74). -/

namespace Sys2Proof.Laws.FieldsInWord

/-- The command's fields are well formed, and its word carries them. -/
def Statement (i : Instr) : Prop := i.WellFormed ∧ fieldsOf (encode i) = i.fields

theorem nop : Statement .nop := ⟨rfl, rfl⟩
theorem ecbDecryptCore : Statement .ecbDecryptCore := ⟨rfl, rfl⟩
theorem ecbDecryptMeta : Statement .ecbDecryptMeta := ⟨rfl, rfl⟩
theorem unpad : Statement .unpad := ⟨rfl, rfl⟩
theorem keyboxBuild : Statement .keyboxBuild := ⟨rfl, rfl⟩
theorem metaUnmask : Statement .metaUnmask := ⟨rfl, rfl⟩
theorem metaDecrypt : Statement .metaDecrypt := ⟨rfl, rfl⟩
theorem unwrapKey : Statement .unwrapKey := ⟨rfl, rfl⟩
theorem streamDecipher : Statement .streamDecipher := ⟨rfl, rfl⟩

end Sys2Proof.Laws.FieldsInWord
end

