-- ==== Sys2Proof/Tests/Slice0.lean ====
section
/-! SUPPORT. Tests of single steps against the values of 95_test_vectors.md, and for every statement with hypotheses a concrete state
and operands that meet them. -/

namespace Sys2Proof.Tests

open Sys2Proof Sys2Proof.Machine

-- One theorem at a time: a long kernel evaluation would hold up a thread for each theorem after it.
set_option Elab.async false

/-! ### Small states -/

/-- Bytes placed from address `a` on. -/
def place (m : Memory) (a : Nat) : List Byte → Memory
  | [] => m
  | b :: rest => place (m.write a b) (a + 1) rest

/-- The reset state with a started command over the given input bytes; the engine moves next. -/
def ready (w src dst len : Word) (input : List Byte) : State :=
  { State.reset with cmd := w, src := src, dst := dst, len := len, busy := true, mem := place [] src.toNat input }

/-- The reset state with one host access pending. -/
def idleHost (op : HostOp) : State := { State.reset with host := [op] }

/-- ECB_DECRYPT.CORE from 0x100 to 0x200 is running and the host moves next. -/
def busyHost (op : HostOp) : State := { ready 0x00000001 0x100 0x200 16 [] with host := [op], turns := [.host] }

/-- The next state, if there is one. -/
def after (o : Host.Outcome State Fault Refusal) : Option State :=
  match o with
  | .next t => some t
  | .fault _ => none
  | .refused _ => none

/-- Bytes of memory. -/
def memAt (s : State) (a n : Nat) : List Byte := (List.range' a n).map s.mem.read

/-- What a command leaves: `n` bytes at `d`, OUT_LEN, ERR_CODE, ERR_INFO, STATUS. -/
def leaves (s : State) (d n : Nat) : Option (List Byte × Word × Byte × Word × Word) :=
  (after (step s)).map fun t => (memAt t d n, t.outLen, t.errCode, t.errInfo, t.statusWord)

theorem next_of_after {o : Host.Outcome State Fault Refusal} (h : (after o).isSome = true) : ∃ t, o = .next t := by
  cases o with
  | next t => exact ⟨t, rfl⟩
  | fault f => cases h
  | refused r => cases h

theorem no_command {w : Word} {e : DecodeReject} (h : decode w = .error e) : ∀ i, decode w ≠ .ok i := by
  intro i hi; rw [h] at hi; cases hi

theorem idleHost_does (op : HostOp) : (idleHost op).hostDoes op ∧ (idleHost op).busy = false := ⟨⟨rfl, rfl⟩, rfl⟩

theorem busyHost_does (op : HostOp) : (busyHost op).hostDoes op ∧ (busyHost op).busy = true := ⟨⟨rfl, rfl⟩, rfl⟩

/-- The key box of V-KB-1 (95_test_vectors.md section 5). -/
def boxVKB1 : List Byte :=
  [0x6E, 0xD2, 0x72, 0x76, 0xE7, 0x13, 0x6B, 0x35, 0x6A, 0xB3, 0x30, 0x15, 0x26, 0x98, 0x1F, 0x4F] ++
  [0xCD, 0x7F, 0xC0, 0x5C, 0x56, 0xAF, 0x54, 0x4D, 0x24, 0xA2, 0x2F, 0x47, 0x08, 0x21, 0x39, 0x65] ++
  [0xE8, 0x1A, 0x60, 0x25, 0x45, 0x0C, 0xDD, 0x0A, 0x74, 0x27, 0x44, 0xA0, 0x51, 0x0F, 0x7B, 0x82] ++
  [0x5A, 0xBD, 0x0B, 0x81, 0xED, 0xC9, 0x70, 0x07, 0x99, 0x5E, 0x14, 0x7A, 0x9F, 0x1E, 0x93, 0xEF] ++
  [0x29, 0x09, 0xAB, 0xFD, 0xD1, 0xBA, 0xD6, 0x77, 0x95, 0x91, 0x63, 0x50, 0x49, 0xD7, 0x1C, 0x36] ++
  [0xB0, 0xFF, 0x2C, 0xBE, 0xC6, 0x32, 0xE0, 0x17, 0xC5, 0xCF, 0x87, 0x3F, 0xF3, 0xA6, 0xC3, 0x52] ++
  [0x55, 0x0E, 0xF0, 0x85, 0x00, 0xFB, 0xB8, 0xE4, 0xCC, 0x38, 0xD3, 0xAA, 0x89, 0x9E, 0xE9, 0x42] ++
  [0xA5, 0x7E, 0x41, 0xA7, 0xCA, 0x86, 0xA3, 0x4A, 0xC1, 0x02, 0xE5, 0xB1, 0x57, 0xDE, 0x83, 0x79] ++
  [0x19, 0x9B, 0x8A, 0x37, 0xD0, 0x92, 0xEA, 0x88, 0x68, 0x6C, 0xEE, 0x22, 0xB9, 0x4B, 0x62, 0x1D] ++
  [0xE2, 0x3D, 0x4E, 0xE6, 0x5F, 0x97, 0x0D, 0x90, 0xCB, 0x8C, 0xE1, 0x78, 0x7C, 0xC4, 0xDB, 0xC7] ++
  [0x96, 0x94, 0xB5, 0x06, 0x6D, 0x61, 0xF1, 0x46, 0x66, 0xD9, 0xD8, 0xA9, 0xE3, 0x23, 0x48, 0x05] ++
  [0xC8, 0x59, 0xAE, 0xFC, 0x2A, 0xB7, 0xF4, 0xCE, 0xF8, 0x80, 0xFE, 0xBB, 0x84, 0x3C, 0x31, 0x12] ++
  [0xDA, 0x8B, 0x2E, 0x73, 0x04, 0x64, 0x5D, 0x4C, 0x3A, 0xD4, 0x40, 0x1B, 0x53, 0xAD, 0xB6, 0xEB] ++
  [0xDF, 0xF7, 0x28, 0xA8, 0xBC, 0x03, 0x69, 0x2B, 0xB2, 0x6F, 0xA4, 0x75, 0x8F, 0xDC, 0xC2, 0x18] ++
  [0x5B, 0x11, 0xEC, 0x01, 0x9D, 0x7D, 0x9A, 0x71, 0x43, 0x20, 0xF5, 0x3E, 0x58, 0x8E, 0xA1, 0xBF] ++
  [0x3B, 0xF2, 0xD5, 0x33, 0xF6, 0x9C, 0xFA, 0x67, 0x10, 0xF9, 0xB4, 0x8D, 0x34, 0xAC, 0x16, 0x2D]

/-- A started STREAM_DECIPHER with the key box of V-KB-1. -/
def readyStream (pos src dst len : Word) (input : List Byte) : State :=
  { ready 0x00000007 src dst len input with
    kbValid := true, streamPos := pos, keybox := Vector.ofFn fun i : Fin 256 => boxVKB1.getD i.val 0 }

/-- A chip with one more region, a device at 0x20000. -/
def deviceChip : Chip :=
  { Config.chip with
    regions := { base := 0x20000, size := 0x100, kind := .device, readable := true, writable := true } :: Config.chip.regions }

/-- A chip with memory up to the last address. -/
def topChip : Chip :=
  { Config.chip with
    regBase := 0
    regions := [{ base := 0xFFFFFF00, size := 0x100, kind := .memory, readable := true, writable := true }] }

/-- A chip that is not coherent. -/
def cachedChip : Chip := { Config.chip with dmaCoherent := false }

/-! ### Well-formedness: each check refuses an ill-formed term -/

theorem test_opDefined_refuses : ({ rsvd := 0, keysel := 0, op := 0x8 } : CommandFields).opDefined = false ∧
    ({ rsvd := 0, keysel := 0, op := 0x8 } : CommandFields).wellFormed = false := by decide

theorem test_rsvdZero_refuses : ({ rsvd := 1, keysel := 0, op := 0x1 } : CommandFields).rsvdZero = false ∧
    ({ rsvd := 1, keysel := 0, op := 0x1 } : CommandFields).wellFormed = false := by decide

theorem test_keyselAllowed_refuses : ({ rsvd := 0, keysel := 1, op := 0x2 } : CommandFields).keyselAllowed = false ∧
    ({ rsvd := 0, keysel := 1, op := 0x2 } : CommandFields).wellFormed = false := by decide

/-! ### Decoding: words written out bit by bit from 30_encoding.md R70 and R72 -/

theorem test_decode_nop : decode 0b00000000000000000000000000000000 = .ok .nop := by decide
theorem test_decode_ecb_core : decode 0b00000000000000000000000000000001 = .ok .ecbDecryptCore := by decide
theorem test_decode_ecb_meta : decode 0b00000000000000000000000000010001 = .ok .ecbDecryptMeta := by decide
theorem test_decode_unpad : decode 0b00000000000000000000000000000010 = .ok .unpad := by decide
theorem test_decode_keybox_build : decode 0b00000000000000000000000000000011 = .ok .keyboxBuild := by decide
theorem test_decode_meta_unmask : decode 0b00000000000000000000000000000100 = .ok .metaUnmask := by decide
theorem test_decode_meta_decrypt : decode 0b00000000000000000000000000000101 = .ok .metaDecrypt := by decide
theorem test_decode_unwrap_key : decode 0b00000000000000000000000000000110 = .ok .unwrapKey := by decide
theorem test_decode_stream_decipher : decode 0b00000000000000000000000000000111 = .ok .streamDecipher := by decide

/-- V-ERR-1 to V-ERR-6: reserved words are rejected by name. -/
theorem test_decode_rejects :
    decode 0x00000008 = .error .reservedOp ∧ decode 0x0000000F = .error .reservedOp ∧
    decode 0x00000020 = .error .reservedBits ∧ decode 0x80000001 = .error .reservedBits ∧
    decode 0x00000012 = .error .keyselNotAllowed ∧ decode 0x00000010 = .error .keyselNotAllowed := by decide

theorem test_decodeTableWord : decodeTableWord 32 0x11 = some .ecbDecryptMeta ∧ decodeTableWord 32 0x1F = none ∧
    decodeTableWord 32 (2 ^ 32) = none := by decide

/-! ### The block cipher (95_test_vectors.md section 2) -/

/-- V-AES-4. -/
theorem test_sbox_spots : sbox 0x00 = 0x63 ∧ sbox 0x01 = 0x7C ∧ sbox 0x53 = 0xED ∧ sbox 0xFF = 0x16 ∧
    invSbox 0x00 = 0x52 ∧ invSbox 0x63 = 0x00 ∧ invSbox 0xED = 0x53 ∧ invSbox 0x16 = 0xFF := by decide +kernel

/-- V-AES-1 (FIPS-197 Appendix C.1). -/
theorem test_block_decrypt_fips :
    blockDecrypt .aes128 #v[0x00, 0x01, 0x02, 0x03, 0x04, 0x05, 0x06, 0x07, 0x08, 0x09, 0x0A, 0x0B, 0x0C, 0x0D, 0x0E, 0x0F]
      #v[0x69, 0xC4, 0xE0, 0xD8, 0x6A, 0x7B, 0x04, 0x30, 0xD8, 0xCD, 0xB7, 0x80, 0x70, 0xB4, 0xC5, 0x5A] =
    #v[0x00, 0x11, 0x22, 0x33, 0x44, 0x55, 0x66, 0x77, 0x88, 0x99, 0xAA, 0xBB, 0xCC, 0xDD, 0xEE, 0xFF] := by decide +kernel

/-- V-AES-2 (FIPS-197 Appendix A.1). -/
theorem test_key_schedule_fips :
    roundKey (keySchedule #v[0x2B, 0x7E, 0x15, 0x16, 0x28, 0xAE, 0xD2, 0xA6, 0xAB, 0xF7, 0x15, 0x88, 0x09, 0xCF, 0x4F, 0x3C]) 10 =
    #v[0xD0, 0x14, 0xF9, 0xA8, 0xC9, 0xEE, 0x25, 0x89, 0xE1, 0x3F, 0x0C, 0xC8, 0xB6, 0x63, 0x0C, 0xA6] := by decide +kernel

/-! ### Commands, one step each -/

/-- Every legal word, as the first command after reset, runs to a next state. -/
theorem test_every_word_runs :
    ([0x00, 0x01, 0x11, 0x02, 0x03, 0x04, 0x05, 0x06, 0x07] : List Nat).all
      (fun w => (after (step (State.reset.withFetchWord 32 w))).isSome) = true := by decide +kernel

/-- 40_control.md R108, its example, and V-ERR-26. -/
theorem test_nop : leaves (ready 0x00000000 0xFFFFFFFF 0 0xFFFFFFFF []) 0 0 = some ([], 0, 0, 0, 0x2) := by decide +kernel

/-- V-ECB-8: in place at 0x100. -/
theorem test_ecb_core_in_place : leaves (ready 0x00000001 0x100 0x100 16 []) 0x100 17 = some
    ([0x2F, 0x82, 0x38, 0x31, 0xFB, 0x95, 0xCB, 0x47, 0x98, 0xE1, 0x6C, 0x43, 0xE6, 0x21, 0x57, 0x68, 0x00], 0x10, 0, 0, 0x2) := by
  decide +kernel

/-- V-ERR-9: the length is checked before the range. -/
theorem test_ecb_core_length_first : leaves (ready 0x00000001 0xFFFFFFF0 0x200 33 []) 0x200 1 = some ([0], 0, 3, 0, 0x6) := by
  decide +kernel

/-- V-ECB-2. -/
theorem test_ecb_meta : leaves (ready 0x00000011 0x100 0x200 16 []) 0x200 16 = some
    ([0x7B, 0x7A, 0x56, 0x5B, 0xEC, 0x59, 0x87, 0x7D, 0xEF, 0x34, 0xEE, 0x6C, 0x29, 0x8C, 0xB7, 0xAC], 0x10, 0, 0, 0x2) := by
  decide +kernel

/-- V-PAD-6: the pad bytes are not checked; the sixth output byte is not written. -/
theorem test_unpad : leaves (ready 0x00000002 0x100 0x200 8 [0x41, 0x42, 0x43, 0x05, 0x05, 0x05, 0x05, 0x03]) 0x200 6 = some
    ([0x41, 0x42, 0x43, 0x05, 0x05, 0x00], 5, 0, 0, 0x2) := by decide +kernel

/-- V-PAD-8. -/
theorem test_unpad_error : leaves (ready 0x00000002 0x100 0x200 1 [0x07]) 0x200 1 = some ([0], 0, 8, 0x7, 0x6) := by decide +kernel

/-- V-KB-1: KEYBOX_WIN[0], KEYBOX_WIN[63], STATUS, STREAM_POS, OUT_LEN. -/
theorem test_keybox_build : (after (step (ready 0x00000003 0x100 0x100 16
      [0x6E, 0x63, 0x6D, 0x32, 0x6D, 0x70, 0x33, 0x2D, 0x74, 0x65, 0x73, 0x74, 0x6B, 0x65, 0x79, 0x21]))).map
      (fun t => (t.readRegister 0x100, t.readRegister 0x1FC, t.statusWord, t.streamPos, t.outLen)) =
    some (0x7672D26E, 0x2D16AC34, 0xA, 1, 0) := by decide +kernel

/-- V-KB-7. -/
theorem test_keybox_build_empty : leaves (ready 0x00000003 0x100 0x100 0 []) 0x100 0 = some ([], 0, 4, 0, 0x6) := by decide +kernel

/-- V-META-4. -/
theorem test_meta_unmask : leaves (ready 0x00000004 0x100 0x200 23 (List.replicate 23 0x63)) 0x200 2 = some ([0x00, 0x00], 1, 0, 0, 0x2) := by
  decide +kernel

/-- V-ERR-23: the output starts inside the input. -/
theorem test_meta_unmask_overlap : leaves (ready 0x00000004 0x100 0x116 86 []) 0x116 0 = some ([], 0, 6, 0, 0x6) := by decide +kernel

/-- The last block of V-META-1: `e":"t"}` and nine pad bytes. -/
theorem test_meta_decrypt : leaves (ready 0x00000005 0x100 0x200 16
      [0x22, 0x1C, 0xE8, 0x79, 0x06, 0xEE, 0xF8, 0x02, 0x8D, 0x84, 0x7A, 0x3F, 0xEB, 0x6F, 0x4E, 0xED]) 0x200 8 = some
    ([0x65, 0x22, 0x3A, 0x22, 0x74, 0x22, 0x7D, 0x00], 7, 0, 0, 0x2) := by decide +kernel

/-- V-META-5. -/
theorem test_meta_decrypt_empty : leaves (ready 0x00000005 0x100 0x200 0 []) 0x200 0 = some ([], 0, 8, 0xFFFFFFFF, 0x6) := by
  decide +kernel

/-- V-UNWRAP-1. -/
theorem test_unwrap_key : leaves (ready 0x00000006 0x100E 0x2000 48 (
      [0x2C, 0xCE, 0xD5, 0xEB, 0x69, 0xEA, 0xFB, 0x14, 0x55, 0x0D, 0x45, 0xBF, 0x61, 0xDD, 0x17, 0x1D] ++
      [0x73, 0x2D, 0x94, 0x75, 0xA8, 0xA5, 0x6D, 0x4E, 0xDF, 0x13, 0x95, 0x7E, 0xE1, 0xE8, 0x7C, 0x41] ++
      [0xC0, 0xC0, 0xE3, 0x0E, 0xD6, 0xD4, 0xE7, 0x61, 0x96, 0x22, 0xDF, 0x36, 0x9C, 0x0C, 0x39, 0x89])) 0x2000 17 = some
    ([0x6E, 0x63, 0x6D, 0x32, 0x6D, 0x70, 0x33, 0x2D, 0x74, 0x65, 0x73, 0x74, 0x6B, 0x65, 0x79, 0x21, 0x00], 0x10, 0, 0, 0x2) := by
  decide +kernel

/-- V-UNWRAP-2. -/
theorem test_unwrap_key_short : leaves (ready 0x00000006 0x100 0x200 16
      [0x45, 0x72, 0xD3, 0x1A, 0x51, 0xD1, 0x57, 0x8E, 0x1C, 0x89, 0xED, 0x17, 0xF2, 0x77, 0x53, 0x37]) 0x200 2 = some
    ([0x00, 0x00], 0, 0, 0, 0x2) := by decide +kernel

/-- V-SD-3: the position wraps at 2^32. -/
theorem test_stream_decipher_wraps : (after (step (readyStream 0xFFFFFFFE 0x3100 0x3200 4 []))).map
      (fun t => (memAt t 0x3200 4, t.streamPos, t.statusWord)) = some ([0x89, 0x83, 0x17, 0xE5], 2, 0xA) := by decide +kernel

/-- V-SD-2a: the first three bytes, in place. -/
theorem test_stream_decipher_in_place : (after (step (readyStream 1 0x3000 0x3000 3
      [0x83, 0xD3, 0xA0, 0x4F, 0x07, 0x20, 0xBC, 0x8B]))).map (fun t => (memAt t 0x3000 8, t.streamPos, t.outLen)) =
    some ([0x66, 0x4C, 0x61, 0x4F, 0x07, 0x20, 0xBC, 0x8B], 4, 3) := by decide +kernel

/-- V-KS-2: with the identity box the keystream is three times the position. -/
theorem test_keystream_identity : keystream identityBox 7 = 0x15 ∧ keystream identityBox 255 = 0xFD := by decide +kernel

/-- V-ERR-13: the range is checked before the overlap. -/
theorem test_range_before_overlap : leaves (ready 0x00000001 0xFFFFFFF0 0xFFFFFFF8 16 []) 0 0 = some ([], 0, 5, 0, 0x6) := by
  decide +kernel

/-- V-ERR-18. -/
theorem test_bus_error_address : leaves (ready 0x00000001 0xFFF0 0x200 32 []) 0 0 = some ([], 0, 7, 0x10000, 0x6) := by decide +kernel

/-- V-ERR-20: the input window is checked first. -/
theorem test_bus_error_input_first : leaves (ready 0x00000001 0x20000 0x10000 16 []) 0 0 = some ([], 0, 7, 0x20000, 0x6) := by
  decide +kernel

/-! ### The host's accesses, one step each -/

/-- Program P3, line 20: SRST and START in one write reset only. -/
theorem test_srst_wins : (after (step { idleHost (.regWrite 0x004 .word 0x3) with len := 0xF, done := true })).map
    (fun t => (t.statusWord, t.len, t.streamPos)) = some (0, 0, 1) := by decide +kernel

/-- Program P3, line 10: clearing ERR alone keeps DONE and the IRQ. -/
theorem test_clear_err : (after (step { idleHost (.regWrite 0x008 .word 0x4) with done := true, err := true, irqEn := true })).map
    (fun t => (t.statusWord, t.irq)) = some (0x2, true) := by decide +kernel

/-- 10_state.md R22, through the host's bus. -/
theorem test_read_id : (after (step (idleHost (.regRead 0x000 .word)))).map (·.answer) = some (.word 0x4E434D44) := by decide +kernel

/-- 20_memory.md R60: a byte access is answered with a bus error and stores nothing. -/
theorem test_byte_access : (after (step (idleHost (.regWrite 0x00C .byte 0x5)))).map (fun t => (t.cmd, t.answer)) =
    some (0, .busError) := by decide +kernel

/-- 20_memory.md R62, R63, 93_implementation_defined.md U15: on a platform that is not coherent a host write is dirty until cleaned. -/
theorem test_cache_clean :
    (after (step { idleHost (.memWrite 0x10 0xAA) with chip := cachedChip })).map (·.mark 0x10) = some .dirty ∧
    (after (step { idleHost (.cacheClean 0x10 1) with chip := cachedChip, cache := [(0x10, .dirty)] })).map (·.mark 0x10) =
      some .synced := by decide +kernel

/-- An UNPAD that writes its first output byte at 0x200, where the host has not written its own byte back, on a platform that is not
coherent. -/
def overUnwritten : State := { ready 2 0x100 0x200 2 [0x41, 0x01] with chip := cachedChip, cache := [(0x200, .dirty)] }

/-- 20_memory.md R62, 93_implementation_defined.md U15: the host's byte is still unwritten after the engine has written over it, and a
clean then leaves the host's copy out of date. -/
theorem test_write_over_unwritten :
    (after (step overUnwritten)).map (fun t => (t.outLen, t.mark 0x200, t.mark 0x201)) = some (1, .clashed, .synced) ∧
    (after (step { idleHost (.cacheClean 0x200 1) with chip := cachedChip, cache := [(0x200, .clashed)] })).map (·.mark 0x200) =
      some .stale := by decide +kernel

/-! ### Witnesses: for each statement with hypotheses, states and operands that meet them, each clause at the edge of its range -/

/-- Obligations.IllegalWordsEndWithError, its second part. -/
theorem witness_IllegalWordsEndWithError :
    (ready 0x00000008 0 0 0 []).engineMoves ∧ (∀ i, decode 0x00000008 ≠ .ok i) ∧ (∀ i, decode 0x0000000F ≠ .ok i) ∧
    (∀ i, decode 0x00000020 ≠ .ok i) ∧ (∀ i, decode 0x80000000 ≠ .ok i) ∧ (∀ i, decode 0x00000010 ≠ .ok i) ∧
    (∀ i, decode 0x00000012 ≠ .ok i) ∧ (∀ i, decode 0x00000017 ≠ .ok i) :=
  ⟨⟨rfl, rfl⟩, no_command rfl, no_command rfl, no_command rfl, no_command rfl, no_command rfl, no_command rfl, no_command rfl⟩

/-- Obligations.DecodeAndEncodeAgree: every command is well formed, and words decode. -/
theorem witness_DecodeAndEncodeAgree : (∀ i : Instr, i.WellFormed) ∧ decode 0x00000011 = .ok .ecbDecryptMeta :=
  ⟨fun i => by cases i <;> rfl, by decide⟩

/-- Obligations.StepRunsTheDecodedCommand: one state for each clause. -/
theorem witness_StepRunsTheDecodedCommand :
    ((ready 0x00000011 0 0 0 []).engineMoves ∧ Instr.WellFormed .ecbDecryptMeta ∧
      decode (ready 0x00000011 0 0 0 []).cmd = .ok .ecbDecryptMeta) ∧
    (idleHost .software).hostDoes .software ∧ (State.reset.busy = false ∧ State.reset.host = []) :=
  ⟨⟨⟨rfl, rfl⟩, rfl, rfl⟩, ⟨rfl, rfl⟩, rfl, rfl⟩

/-- Obligations.FetchWordRunsNext: the first and the last word. -/
theorem witness_FetchWordRunsNext : decode 0x00000000 = .ok .nop ∧ decode 0x00000007 = .ok .streamDecipher := by decide

/-- Obligations.HostAccessesInOrder: a step of each agent. -/
theorem witness_HostAccessesInOrder :
    ((∃ t, step (idleHost .software) = .next t) ∧ (idleHost .software).mover = .host) ∧
    (∃ t, step (ready 0x00000000 0 0 0 []) = .next t) ∧ (ready 0x00000000 0 0 0 []).mover = .engine :=
  ⟨⟨⟨_, rfl⟩, rfl⟩, ⟨_, rfl⟩, rfl⟩

/-- Obligations.NopCompletes, its second part: the words nearest to NOP. -/
theorem witness_NopCompletes : (0x00000010 : Word).toNat % 16 = 0 ∧ (0x00000010 : Word) ≠ 0 ∧
    (0xFFFFFFF0 : Word).toNat % 16 = 0 ∧ (0xFFFFFFF0 : Word) ≠ 0 := by decide

/-- Obligations.EcbDecryptResult: an empty window, adjacent windows, one window in place that ends with the admitted memory, and
windows that end with the address space. -/
theorem witness_EcbDecryptResult :
    (∀ s ∈ [ready 1 0 0 0 [], ready 1 0x100 0x110 16 [], ready 1 0xFFF0 0xFFF0 16 [],
        { ready 1 0xFFFFFFE0 0xFFFFFFF0 16 [] with chip := topChip }],
      s.len.toNat % 16 = 0 ∧ s.WindowsGood s.len.toNat s.len.toNat ∧ s.Maintained s.len.toNat s.len.toNat) := by
  unfold State.WindowsGood State.Maintained; decide +kernel

/-- Obligations.UnpadResult: the empty window, `n = 0`, `n = LEN + 1`, `n = 1` and `n = LEN`. -/
theorem witness_UnpadResult :
    (∀ s ∈ [ready 2 0x100 0x200 0 [], ready 2 0x100 0x200 2 [9, 0], ready 2 0x100 0x200 2 [9, 3], ready 2 0x100 0x200 2 [9, 1],
        ready 2 0x100 0x200 2 [9, 2]],
      s.WindowsGood s.len.toNat s.len.toNat ∧ s.Maintained s.len.toNat s.len.toNat) ∧
    (ready 2 0x100 0x200 2 [9, 0]).memInput.getLast? = some 0 ∧ (ready 2 0x100 0x200 2 [9, 3]).memInput.getLast? = some 3 ∧
    (ready 2 0x100 0x200 2 [9, 1]).memInput.getLast? = some 1 ∧ (ready 2 0x100 0x200 2 [9, 2]).memInput.getLast? = some 2 := by
  unfold State.WindowsGood State.Maintained; decide +kernel

/-- Obligations.KeyboxBuildResult: one byte, and the last byte of the admitted memory. -/
theorem witness_KeyboxBuildResult :
    ∀ s ∈ [ready 3 0x100 0x100 1 [], ready 3 0xFFFF 0 1 []],
      s.len ≠ 0 ∧ s.WindowsGood s.len.toNat 0 ∧ s.Maintained s.len.toNat 0 := by
  unfold State.WindowsGood State.Maintained; decide +kernel

/-- Obligations.MetaUnmaskResult: 0, 22 and 23 bytes. -/
theorem witness_MetaUnmaskResult :
    ∀ s ∈ [ready 4 0 0 0 [], ready 4 0x100 0xFFFFFFFF 22 [], ready 4 0x100 0x100 23 []],
      s.WindowsGood s.len.toNat (s.len.toNat - 22) ∧ s.Maintained s.len.toNat (s.len.toNat - 22) := by
  unfold State.WindowsGood State.Maintained; decide +kernel

/-- A META_DECRYPT of the block `41`^15 `10`, which has its last byte equal to LEN. -/
def metaWhole : State := ready 5 0x100 0x200 16
  [0x6B, 0x9E, 0xAE, 0xC1, 0xFE, 0x2A, 0x35, 0x95, 0x8C, 0xE1, 0x39, 0x99, 0xDD, 0xFC, 0x38, 0xBA]

/-- A META_DECRYPT of the block `41`^15 `11`, which has its last byte equal to LEN + 1. -/
def metaBad : State := ready 5 0x100 0x200 16
  [0x3F, 0x12, 0x0D, 0x8A, 0xBD, 0x62, 0x14, 0x1E, 0xA4, 0xB0, 0x54, 0x87, 0xE0, 0xDB, 0x94, 0x8E]

/-- Obligations.MetaDecryptResult: the empty window, `n = LEN` and `n = LEN + 1`. -/
theorem witness_MetaDecryptResult :
    (∀ s ∈ [ready 5 0x100 0x200 0 [], metaWhole, metaBad],
      s.len.toNat % 16 = 0 ∧ s.WindowsGood s.len.toNat s.len.toNat ∧ s.Maintained s.len.toNat s.len.toNat) ∧
    (ecbDec metaWhole.chip.cipher metaWhole.chip.metaKey metaWhole.memInput).getLast? = some 16 ∧
    (ecbDec metaBad.chip.cipher metaBad.chip.metaKey metaBad.memInput).getLast? = some 17 := by
  unfold State.WindowsGood State.Maintained; decide +kernel

/-- An UNWRAP_KEY of the block `41`^15 `10`, which has its last byte equal to LEN. -/
def unwrapWhole : State := ready 6 0x100 0x200 16
  [0x8D, 0xAC, 0x86, 0xAD, 0x10, 0x57, 0x7D, 0x11, 0x95, 0xED, 0x8E, 0x09, 0xF6, 0x41, 0xFD, 0x20]

/-- An UNWRAP_KEY of the block `41`^15 `11`, which has its last byte equal to LEN + 1. -/
def unwrapBad : State := ready 6 0x100 0x200 16
  [0x68, 0xD4, 0x62, 0xC2, 0x16, 0xE5, 0xCC, 0x9E, 0x8B, 0xC3, 0xFC, 0x73, 0xFD, 0xD6, 0xC7, 0xFA]

/-- Obligations.UnwrapKeyResult: the empty window, `n = LEN` and `n = LEN + 1`. -/
theorem witness_UnwrapKeyResult :
    (∀ s ∈ [ready 6 0x100 0x200 0 [], unwrapWhole, unwrapBad],
      s.len.toNat % 16 = 0 ∧ s.WindowsGood s.len.toNat s.len.toNat ∧ s.Maintained s.len.toNat s.len.toNat) ∧
    (ecbDec unwrapWhole.chip.cipher unwrapWhole.chip.coreKey (unwrapWhole.memInput.map (· ^^^ 0x64))).getLast? = some 16 ∧
    (ecbDec unwrapBad.chip.cipher unwrapBad.chip.coreKey (unwrapBad.memInput.map (· ^^^ 0x64))).getLast? = some 17 := by
  unfold State.WindowsGood State.Maintained; decide +kernel

/-- Obligations.StreamDecipherResult: an empty chunk, and a chunk across the wrap of STREAM_POS. -/
theorem witness_StreamDecipherResult :
    ∀ s ∈ [readyStream 5 0x100 0x200 0 [], readyStream 0xFFFFFFFE 0x100 0x104 4 []],
      s.kbValid = true ∧ s.WindowsGood s.len.toNat s.len.toNat ∧ s.Maintained s.len.toNat s.len.toNat := by
  unfold State.WindowsGood State.Maintained; decide +kernel

/-- Obligations.EcbBlocksIndependent: the second of two blocks, and lengths just off a multiple of 16. -/
theorem witness_EcbBlocksIndependent :
    ((List.replicate 32 (0 : Byte)).length % 16 = 0 ∧ 1 < (List.replicate 32 (0 : Byte)).length / 16) ∧
    (ready 1 0 0 15 []).len.toNat % 16 ≠ 0 ∧ (ready 5 0 0 17 []).len.toNat % 16 ≠ 0 ∧
    (ready 6 0 0 0xFFFFFFFF []).len.toNat % 16 ≠ 0 := by decide +kernel

/-- Obligations.RemovePaddingChecksFinalByteOnly: `n = 0`, `n` one more than the length, `n` the length. -/
theorem witness_RemovePaddingChecksFinalByteOnly :
    (((0 : Byte) = 0 ∨ ([] : List Byte).length + 1 < (0 : Byte).toNat)) ∧
    (((2 : Byte) = 0 ∨ ([] : List Byte).length + 1 < (2 : Byte).toNat)) ∧
    ((1 : Byte) ≠ 0 ∧ (1 : Byte).toNat ≤ ([] : List Byte).length + 1) := by decide

/-- Obligations.KeyScheduleRecurrence: its words, and the indexes at the ends of its ranges. -/
theorem witness_KeyScheduleRecurrence :
    (∃ w : Nat → KeyWord, ∀ i, w i = scheduleWord (keySchedule Config.coreKey) i) ∧
    ((3 < 4 ∧ 3 < 4) ∧ (4 ≤ 4 ∧ 4 < 44 ∧ 4 % 4 = 0) ∧ (4 ≤ 43 ∧ 43 < 44 ∧ 43 % 4 ≠ 0) ∧ (10 ≤ 10 ∧ 3 < 4 ∧ 3 < 4)) :=
  ⟨⟨_, fun _ => rfl⟩, by decide⟩

/-- Obligations.SboxTablesMatchDefinition: bytes on both sides of 128, and the least that has an inverse. -/
theorem witness_SboxTablesMatchDefinition :
    ((0x7F : Byte).toNat < 128 ∧ ¬ (0x80 : Byte).toNat < 128) ∧ (0x01 : Byte) ≠ 0 ∧ gfMul 0x01 0x01 = 0x01 := by decide

/-- The states of BLOCK_DECRYPT after its first AddRoundKey and `n` rounds. -/
def roundStates (key c : Block) : Nat → Block
  | 0 => addRoundKey c (roundKey (keySchedule key) 10)
  | n + 1 => invRound (keySchedule key) (roundStates key c n) (9 - n)

/-- Obligations.BlockDecryptSequence: for every key and block there are such round keys and states. -/
theorem witness_BlockDecryptSequence (key c : Block) :
    ∃ rk s : Nat → Block, (∀ r, r ≤ 10 → rk r = roundKey (keySchedule key) r) ∧ s 10 = addRoundKey c (rk 10) ∧
      ∀ r, 1 ≤ r → r ≤ 9 → s r = invMixColumns (addRoundKey (invSubBytes (invShiftRows (s (r + 1)))) (rk r)) := by
  refine ⟨roundKey (keySchedule key), fun r => roundStates key c (10 - r), fun _ _ => rfl, rfl, fun r h1 h9 => ?_⟩
  have h : 10 - r = (9 - r) + 1 := by omega
  have h' : 10 - (r + 1) = 9 - r := by omega
  have h'' : 9 - (9 - r) = r := by omega
  simp only [h, h', h'', roundStates, invRound]

/-- The index, the entries and the accumulator of R150 at an iteration, over numbers: `(entry, last)` before iteration `i`. -/
def boxStates (km : List Byte) : Nat → (Nat → Nat) × Nat
  | 0 => (fun x => x, 0)
  | i + 1 =>
    let (box, last) := boxStates km i
    let c := (box i + last + (km.getD (i % km.length) 0).toNat) % 256
    (fun x => if x = c then box i else if x = i then box c else box x, c)

/-- Obligations.KeyBoxRecurrence: for every key material of one byte or more there are such entries, accumulators and indexes. -/
theorem witness_KeyBoxRecurrence (km : List Byte) : ([0xFF] : List Byte) ≠ [] ∧
    ∃ (box : Nat → Nat → Nat) (last c : Nat → Nat),
      (∀ x, x < 256 → box 0 x = x) ∧ last 0 = 0 ∧
      (∀ i, i < 256 → c i = (box i i + last i + (km.getD (i % km.length) 0).toNat) % 256) ∧
      (∀ i, i < 256 → last (i + 1) = c i) ∧
      ∀ i x, i < 256 → x < 256 → box (i + 1) x = if x = c i then box i i else if x = i then box i (c i) else box i x :=
  ⟨by decide, fun i => (boxStates km i).1, fun i => (boxStates km i).2, fun i => (boxStates km (i + 1)).2,
    fun _ _ => rfl, rfl, fun _ _ => rfl, fun _ _ => rfl, fun _ _ _ _ => rfl⟩

/-- Obligations.KeyBoxReadsFirst256Bytes: 256 and 300 bytes, as in V-KB-4 and V-KB-5. -/
theorem witness_KeyBoxReadsFirst256Bytes :
    256 ≤ (List.replicate 256 (1 : Byte)).length ∧ 256 ≤ (List.replicate 256 (1 : Byte) ++ List.replicate 44 0xAA).length ∧
    (List.replicate 256 (1 : Byte)).take 256 = (List.replicate 256 (1 : Byte) ++ List.replicate 44 0xAA).take 256 :=
  ⟨by decide +kernel, by decide +kernel, by decide +kernel⟩

/-- Obligations.KeystreamByPosition: the two entries it names are there to be read. -/
theorem witness_KeystreamByPosition : ∃ a b : Byte, a = identityBox[255 % 256]'(Nat.mod_lt _ (by decide)) ∧
    b = identityBox[(a.toNat + 255 % 256) % 256]'(Nat.mod_lt _ (by decide)) := ⟨_, _, rfl, rfl⟩

/-- Obligations.PrecheckReportsFirstError: each check, the last two at the first address outside the admitted memory. -/
theorem witness_PrecheckReportsFirstError :
    (ready 0x00000008 0 0 0 []).engineMoves ∧ (∀ i, decode (ready 0x00000008 0 0 0 []).cmd ≠ .ok i) ∧
    (ready 7 0 0 0 []).kbValid = false ∧ (ready 1 0 0 15 []).len.toNat % 16 ≠ 0 ∧ (ready 3 0 0 0 []).len = 0 ∧
    (¬ OperandsRefused .unpad (ready 2 0xFFFFFFFF 0 2 []) ∧
      ¬ (ready 2 0xFFFFFFFF 0 2 []).InRange (inSize .unpad (ready 2 0xFFFFFFFF 0 2 [])) (outSize .unpad (ready 2 0xFFFFFFFF 0 2 []))) ∧
    (¬ OperandsRefused .unpad (ready 2 0x100 0x101 2 []) ∧ (ready 2 0x100 0x101 2 []).InRange 2 2 ∧
      (ready 2 0x100 0x101 2 []).PartialOverlap 2 2) ∧
    (¬ OperandsRefused .unpad (ready 2 0xFFFF 0 2 []) ∧ (ready 2 0xFFFF 0 2 []).InRange 2 2 ∧
      ¬ (ready 2 0xFFFF 0 2 []).PartialOverlap 2 2 ∧ LeastBad (ready 2 0xFFFF 0 2 []).chip .read 0xFFFF 2 0x10000) ∧
    (¬ OperandsRefused .unpad (ready 2 0 0xFFFF 2 []) ∧ (ready 2 0 0xFFFF 2 []).InRange 2 2 ∧
      ¬ (ready 2 0 0xFFFF 2 []).PartialOverlap 2 2 ∧
      (∀ k, k < 2 → (ready 2 0 0xFFFF 2 []).chip.admits .read (0 + k) = true) ∧
      LeastBad (ready 2 0 0xFFFF 2 []).chip .write 0xFFFF 2 0x10000) := by
  refine ⟨⟨rfl, rfl⟩, no_command rfl, rfl, by decide +kernel, rfl, ?_, ?_, ?_, ?_⟩ <;>
    unfold OperandsRefused State.InRange <;> first | decide +kernel | (unfold State.PartialOverlap LeastBad; decide +kernel) |
      (unfold State.PartialOverlap; decide +kernel)

/-- UNPAD whose input window of one byte is at `src` and whose output window is at `dst`, with a device admitted at 0x20000. -/
def overDevice (src dst : Word) : State := { ready 2 src dst 1 [] with chip := deviceChip }

/-- Obligations.NonIdempotentWindowFaults: the first and the last byte of a device in the input window, and in the output window. -/
theorem witness_NonIdempotentWindowFaults :
    (∀ s ∈ [overDevice 0x20000 0x100, overDevice 0x200FF 0x100, overDevice 0x100 0x20000, overDevice 0x100 0x200FF],
      s.InRange (inSize .unpad s) (outSize .unpad s) ∧ ¬ s.PartialOverlap (inSize .unpad s) (outSize .unpad s) ∧
      (∀ k, k < inSize .unpad s → s.chip.admits .read (s.src.toNat + k) = true) ∧
      (∀ k, k < outSize .unpad s → s.chip.admits .write (s.dst.toNat + k) = true)) ∧
    (∀ s, ¬ OperandsRefused .unpad s) ∧
    (0 < inSize .unpad (overDevice 0x200FF 0x100) ∧
      (overDevice 0x200FF 0x100).chip.plain ((overDevice 0x200FF 0x100).src.toNat + 0) = false) ∧
    (0 < outSize .unpad (overDevice 0x100 0x20000) ∧
      (overDevice 0x100 0x20000).chip.plain ((overDevice 0x100 0x20000).dst.toNat + 0) = false) ∧
    ∃ f, exec .unpad (overDevice 0x20000 0x100) = .fault f := by
  refine ⟨by unfold State.InRange State.PartialOverlap; decide +kernel, fun s => ?_, by decide +kernel, by decide +kernel, _, rfl⟩
  simp [OperandsRefused]

/-- Obligations.ErrorChangesCompletionFieldsOnly: a command that ends with an error. -/
theorem witness_ErrorChangesCompletionFieldsOnly : ∃ t, exec .keyboxBuild (ready 3 0 0 0 []) = .next t ∧ t.err = true := ⟨_, rfl, rfl⟩

/-- Obligations.ErrorsAreDeterministic: two states that differ in the key box and the stream position. -/
theorem witness_ErrorsAreDeterministic :
    ∃ s s' t t', s.chip.dmaCoherent = true ∧ s'.chip = s.chip ∧ s'.src = s.src ∧ s'.dst = s.dst ∧ s'.len = s.len ∧
      s'.kbValid = s.kbValid ∧ (∀ a, s'.mem.read a = s.mem.read a) ∧ s'.keybox ≠ s.keybox ∧ s'.streamPos ≠ s.streamPos ∧
      exec .unpad s = .next t ∧ exec .unpad s' = .next t' :=
  ⟨ready 2 0 0 0 [], { ready 2 0 0 0 [] with keybox := Vector.replicate 256 1, streamPos := 7 }, _, _, rfl, rfl, rfl, rfl, rfl, rfl,
    fun _ => rfl, by decide +kernel, by decide +kernel, rfl, rfl⟩

/-- Obligations.CommandFrame: each group of commands answers a next state, and addresses on both sides of the output. -/
theorem witness_CommandFrame :
    (∃ t, exec .nop (ready 0 0 0 0 []) = .next t) ∧ (∃ t, exec .keyboxBuild (ready 3 0x100 0 1 []) = .next t) ∧
    (∃ t, exec .streamDecipher (readyStream 1 0x100 0x200 1 []) = .next t) ∧
    (∃ t, exec .unpad (ready 2 0x100 0x200 2 [9, 1]) = .next t ∧ 0x1FF < 0x200 ∧ 0x200 + t.outLen.toNat ≤ 0x201) :=
  ⟨⟨_, rfl⟩, next_of_after (by decide +kernel), next_of_after (by decide +kernel), by
    obtain ⟨t, h⟩ := next_of_after (o := exec .unpad (ready 2 0x100 0x200 2 [9, 1])) (by decide +kernel)
    refine ⟨t, h, by decide, ?_⟩
    have : (after (exec .unpad (ready 2 0x100 0x200 2 [9, 1]))).map (·.outLen.toNat) = some 1 := by decide +kernel
    rw [h] at this
    have := Option.some.inj (show some t.outLen.toNat = some 1 from this)
    omega⟩

/-- Obligations.ResultIndependentOfDestination: in place, and at the first address after the input. -/
theorem witness_ResultIndependentOfDestination :
    (∀ s ∈ [ready 2 0x100 0x100 2 [9, 1], { ready 2 0x100 0x100 2 [9, 1] with dst := 0x102 }],
      s.WindowsGood 2 2 ∧ s.Maintained 2 2 ∧ (after (exec .unpad s)).isSome = true) ∧
    inSize .unpad (ready 2 0x100 0x100 2 [9, 1]) = 2 ∧ outSize .unpad (ready 2 0x100 0x100 2 [9, 1]) = 2 := by
  unfold State.WindowsGood State.Maintained; decide +kernel

/-- Obligations.ChunkBoundariesDoNotMatter: no chunk at all, and chunks of 0, 3 and 5 bytes. -/
theorem witness_ChunkBoundariesDoNotMatter :
    ((readyStream 1 0x100 0x100 0 []).kbValid = true ∧ ([] : List Nat).sum = (readyStream 1 0x100 0x100 0 []).len.toNat ∧
      (readyStream 1 0x100 0x100 0 []).WindowsGood 0 0 ∧ (readyStream 1 0x100 0x100 0 []).Maintained 0 0) ∧
    ((readyStream 1 0x100 0x108 8 []).kbValid = true ∧ ([0, 3, 5] : List Nat).sum = (readyStream 1 0x100 0x108 8 []).len.toNat ∧
      (readyStream 1 0x100 0x108 8 []).WindowsGood 8 8 ∧ (readyStream 1 0x100 0x108 8 []).Maintained 8 8) := by
  unfold State.WindowsGood State.Maintained; decide +kernel

/-- Obligations.DecipherTwiceRestores: four bytes across the wrap of STREAM_POS, to another window and on to a third, to another window
and back, and in place. -/
theorem witness_DecipherTwiceRestores :
    ∀ p ∈ [(readyStream 0xFFFFFFFE 0x100 0x104 4 [], readyStream 0xFFFFFFFE 0x104 0x108 4 []),
        (readyStream 0xFFFFFFFE 0x100 0x104 4 [], readyStream 0xFFFFFFFE 0x104 0x100 4 []),
        (readyStream 0xFFFFFFFE 0x100 0x100 4 [], readyStream 0xFFFFFFFE 0x100 0x100 4 [])],
      p.1.kbValid = true ∧ p.1.WindowsGood p.1.len.toNat p.1.len.toNat ∧ p.1.Maintained p.1.len.toNat p.1.len.toNat ∧
      ({ p.1 with src := p.1.dst, dst := p.2.dst } : State).WindowsGood p.1.len.toNat p.1.len.toNat ∧
      ({ p.1 with src := p.1.dst, dst := p.2.dst } : State).Maintained p.1.len.toNat p.1.len.toNat := by
  unfold State.WindowsGood State.Maintained; decide +kernel

/-- Obligations.MetaDecryptIsDecryptThenUnpad: an empty window and one block. -/
theorem witness_MetaDecryptIsDecryptThenUnpad :
    ∀ s ∈ [ready 5 0 0 0 [], metaWhole], s.len.toNat % 16 = 0 ∧ s.WindowsGood s.len.toNat s.len.toNat ∧
      s.Maintained s.len.toNat s.len.toNat ∧ (∀ k, k < s.len.toNat → s.chip.admits .read (s.dst.toNat + k) = true) := by
  unfold State.WindowsGood State.Maintained; decide +kernel

/-- Obligations.PowerOnResetValues, its second and third parts: both resets, idle and in the middle of a command, and the bytes next
to the aborted output window. -/
theorem witness_PowerOnResetValues :
    ((idleHost .powerOnReset).hostDoes .powerOnReset ∧ (busyHost .powerOnReset).hostDoes .powerOnReset) ∧
    (∀ s ∈ [idleHost .powerOnReset, busyHost .powerOnReset, idleHost (.regWrite 0x004 .word 0x2), busyHost (.regWrite 0x004 .word 0x2)],
      (after (step s)).isSome = true ∧ s.runningOutput 0x1FF = false ∧ s.runningOutput 0x210 = false) ∧
    ((busyHost (.regWrite 0x004 .word 0x2)).hostDoes (.regWrite 0x004 .word 0x2) ∧ (0x2 : Word).getLsbD 1 = true) ∧
    (idleHost .powerOnReset).busy = false ∧ (idleHost (.regWrite 0x004 .word 0x2)).busy = false :=
  ⟨⟨(idleHost_does _).1, (busyHost_does _).1⟩, by decide +kernel, ⟨(busyHost_does _).1, by decide⟩, rfl, rfl⟩

/-- Obligations.SoftResetAborts: idle and busy, SRST alone and with every other bit; an address outside the output window. -/
theorem witness_SoftResetAborts :
    ((idleHost (.regWrite 0x004 .word 0x2)).hostDoes (.regWrite 0x004 .word 0x2) ∧ (0x2 : Word).getLsbD 1 = true ∧
      (idleHost (.regWrite 0x004 .word 0x2)).busy = false) ∧
    ((busyHost (.regWrite 0x004 .word 0xFFFFFFFF)).hostDoes (.regWrite 0x004 .word 0xFFFFFFFF) ∧ (0xFFFFFFFF : Word).getLsbD 1 = true) ∧
    (busyHost (.regWrite 0x004 .word 0xFFFFFFFF)).runningOutput 0x210 = false :=
  ⟨⟨(idleHost_does _).1, by decide, rfl⟩, ⟨(busyHost_does _).1, by decide⟩, by decide +kernel⟩

/-- Obligations.IdRegister. -/
theorem witness_IdRegister (v : Word) : (idleHost (.regRead 0x000 .word)).hostDoes (.regRead 0x000 .word) ∧
    (busyHost (.regWrite 0x000 .word v)).hostDoes (.regWrite 0x000 .word v) := ⟨(idleHost_does _).1, (busyHost_does _).1⟩

/-- Obligations.ReservedOffsets: the first and the last offset of both ranges. -/
theorem witness_ReservedOffsets :
    (∀ n ∈ [0x02C, 0x0FC, 0x200, 0xFFC], (BitVec.ofNat 12 n).toNat = n ∧ n % 4 = 0 ∧
      ((0x02C ≤ n ∧ n ≤ 0x0FC) ∨ (0x200 ≤ n ∧ n ≤ 0xFFC))) ∧
    ∀ (o : BitVec 12) (v : Word), (idleHost (.regRead o .word)).hostDoes (.regRead o .word) ∧
      (busyHost (.regWrite o .word v)).hostDoes (.regWrite o .word v) :=
  ⟨by decide, fun _ _ => ⟨(idleHost_does _).1, (busyHost_does _).1⟩⟩

/-- Obligations.KeyboxWindow: the first and the last word, readable, not built, and busy. -/
theorem witness_KeyboxWindow :
    (((0x100 : BitVec 12).toNat = 0x100 + 4 * 0 ∧ (0x1FC : BitVec 12).toNat = 0x100 + 4 * 63) ∧
    (({ idleHost (.regRead 0x100 .word) with kbValid := true } : State).hostDoes (.regRead 0x100 .word) ∧
      ({ idleHost (.regRead 0x100 .word) with kbValid := true } : State).kbValid = true)) ∧
    ((idleHost (.regRead 0x1FC .word)).hostDoes (.regRead 0x1FC .word) ∧ (idleHost (.regRead 0x1FC .word)).kbValid = false) ∧
    ((busyHost (.regRead 0x1FC .word)).hostDoes (.regRead 0x1FC .word) ∧ (busyHost (.regRead 0x1FC .word)).busy = true) ∧
    (idleHost (.regWrite 0x1FC .word 1)).hostDoes (.regWrite 0x1FC .word 1) :=
  ⟨⟨by decide, ⟨rfl, rfl⟩, rfl⟩, ⟨⟨rfl, rfl⟩, rfl⟩, ⟨⟨rfl, rfl⟩, rfl⟩, ⟨rfl, rfl⟩⟩

/-- Obligations.OnlyAlignedWordAccesses: a byte access, a double word, an offset off by one, and an aligned read at the last offset. -/
theorem witness_OnlyAlignedWordAccesses :
    ((AccessSize.byte ≠ .word) ∧ (idleHost (.regRead 0x008 .byte)).hostDoes (.regRead 0x008 .byte)) ∧
    ((AccessSize.dword ≠ .word) ∧ (idleHost (.regWrite 0x010 .dword 1)).hostDoes (.regWrite 0x010 .dword 1)) ∧
    ((0x009 : BitVec 12).toNat % 4 ≠ 0 ∧ (idleHost (.regWrite 0x009 .word 1)).hostDoes (.regWrite 0x009 .word 1)) ∧
    ((0xFFC : BitVec 12).toNat % 4 = 0 ∧ (busyHost (.regRead 0xFFC .word)).hostDoes (.regRead 0xFFC .word)) :=
  ⟨⟨by decide, rfl, rfl⟩, ⟨by decide, rfl, rfl⟩, ⟨by decide, rfl, rfl⟩, ⟨by decide, rfl, rfl⟩⟩

/-- Obligations.RegisterReadValues. -/
theorem witness_RegisterReadValues (o : BitVec 12) : (idleHost (.regRead o .word)).hostDoes (.regRead o .word) ∧
    (busyHost (.regRead o .word)).hostDoes (.regRead o .word) := ⟨(idleHost_does _).1, (busyHost_does _).1⟩

/-- Obligations.IdleOperandWrites. -/
theorem witness_IdleOperandWrites (o : BitVec 12) (v : Word) : (idleHost (.regWrite o .word v)).busy = false ∧
    (idleHost (.regWrite o .word v)).hostDoes (.regWrite o .word v) := ⟨rfl, (idleHost_does _).1⟩

/-- Obligations.CtrlRegister: a read, SRST, IRQ_EN alone, START while busy, and START while idle. -/
theorem witness_CtrlRegister :
    (idleHost (.regRead 0x004 .word)).hostDoes (.regRead 0x004 .word) ∧
    ((idleHost (.regWrite 0x004 .word 0x7)).hostDoes (.regWrite 0x004 .word 0x7) ∧ (0x7 : Word).getLsbD 1 = true) ∧
    ((idleHost (.regWrite 0x004 .word 0x4)).hostDoes (.regWrite 0x004 .word 0x4) ∧ (0x4 : Word).getLsbD 1 = false ∧
      (0x4 : Word).getLsbD 0 = false) ∧
    ((busyHost (.regWrite 0x004 .word 0x5)).hostDoes (.regWrite 0x004 .word 0x5) ∧ (0x5 : Word).getLsbD 1 = false ∧
      (busyHost (.regWrite 0x004 .word 0x5)).busy = true) ∧
    ((idleHost (.regWrite 0x004 .word 0x5)).hostDoes (.regWrite 0x004 .word 0x5) ∧ (0x5 : Word).getLsbD 1 = false ∧
      (0x5 : Word).getLsbD 0 = true ∧ (idleHost (.regWrite 0x004 .word 0x5)).busy = false) :=
  ⟨⟨rfl, rfl⟩, ⟨⟨rfl, rfl⟩, by decide⟩, ⟨⟨rfl, rfl⟩, by decide, by decide⟩, ⟨⟨rfl, rfl⟩, by decide, rfl⟩,
    ⟨⟨rfl, rfl⟩, by decide, by decide, rfl⟩⟩

/-- Obligations.AcceptedStart: idle and busy. -/
theorem witness_AcceptedStart :
    ((idleHost (.regWrite 0x004 .word 0x1)).hostDoes (.regWrite 0x004 .word 0x1) ∧ (0x1 : Word).getLsbD 0 = true ∧
      (0x1 : Word).getLsbD 1 = false ∧ (idleHost (.regWrite 0x004 .word 0x1)).busy = false) ∧
    (busyHost (.regWrite 0x004 .word 0x1)).hostDoes (.regWrite 0x004 .word 0x1) ∧ (busyHost (.regWrite 0x004 .word 0x1)).busy = true :=
  ⟨⟨⟨rfl, rfl⟩, by decide, by decide, rfl⟩, ⟨rfl, rfl⟩, rfl⟩

/-- Obligations.StatusRegister. -/
theorem witness_StatusRegister : (busyHost (.regRead 0x008 .word)).hostDoes (.regRead 0x008 .word) ∧
    (idleHost (.regWrite 0x008 .word 0x6)).hostDoes (.regWrite 0x008 .word 0x6) ∧ (idleHost (.regWrite 0x008 .word 0x6)).busy = false :=
  ⟨⟨rfl, rfl⟩, ⟨rfl, rfl⟩, rfl⟩

/-- Obligations.WritesWhileBusy: each kind of access, KEYBOX_WIN at its two ends. -/
theorem witness_WritesWhileBusy :
    (∀ op, (busyHost op).busy = true ∧ (busyHost op).hostDoes op) ∧ (0x4 : Word).getLsbD 1 = false ∧ (0x2 : Word).getLsbD 1 = true ∧
    (∀ n ∈ [0x100, 0x1FC], (BitVec.ofNat 12 n).toNat = n ∧ n % 4 = 0 ∧ 0x100 ≤ n ∧ n < 0x200) :=
  ⟨fun op => (busyHost_does op).symm, by decide, by decide, by decide⟩

/-- A state with the IRQ enabled and low. -/
def quiet (s : State) : State := { s with irqEn := true }

/-- Obligations.IrqRisesOnlyAtCompletion: both ways it rises. -/
theorem witness_IrqRisesOnlyAtCompletion :
    (∃ t, exec .nop (ready 0 0 0 0 []) = .next t) ∧
    (∃ t, step (quiet (ready 0 0 0 0 [])) = .next t ∧ (quiet (ready 0 0 0 0 [])).irq = false ∧ t.irq = true) ∧
    (∃ t, step { idleHost (.regWrite 0x004 .word 0x4) with done := true } = .next t ∧
      ({ idleHost (.regWrite 0x004 .word 0x4) with done := true } : State).irq = false ∧ t.irq = true) :=
  ⟨⟨_, rfl⟩, ⟨_, rfl, rfl, rfl⟩, ⟨_, rfl, rfl, rfl⟩⟩

/-- Obligations.IrqFalls: each of its six cases. -/
theorem witness_IrqFalls :
    (∀ op ∈ [HostOp.regWrite 0x008 .word 0x2, .regWrite 0x004 .word 0x1, .regWrite 0x004 .word 0x2, .regWrite 0x004 .word 0x0,
        .powerOnReset, .regWrite 0x008 .word 0x4], (after (step (idleHost op))).isSome = true) ∧
    (∀ op, (idleHost op).hostDoes op ∧ (idleHost op).busy = false) ∧
    (0x2 : Word).getLsbD 1 = true ∧ (0x1 : Word).getLsbD 0 = true ∧ (0x0 : Word).getLsbD 2 = false ∧ (0x4 : Word).getLsbD 1 = false :=
  ⟨by decide +kernel, idleHost_does, by decide, by decide, by decide, by decide⟩

/-- Obligations.HostRaceFaults: the first and last byte of the windows `[0x100, 0x110)` and `[0x200, 0x210)`. -/
theorem witness_HostRaceFaults :
    (∀ op, (busyHost op).busy = true ∧ (busyHost op).hostDoes op ∧ decode (busyHost op).cmd = .ok .ecbDecryptCore ∧
      (busyHost op).src.toNat = 0x100 ∧ (busyHost op).dst.toNat = 0x200 ∧ inSize .ecbDecryptCore (busyHost op) = 16 ∧
      outSize .ecbDecryptCore (busyHost op) = 16) ∧
    (0x100 ≤ (0x100 : Word).toNat ∧ (0x10F : Word).toNat < 0x100 + 16) ∧
    (0x200 ≤ (0x200 : Word).toNat ∧ (0x20F : Word).toNat < 0x200 + 16) :=
  ⟨fun op => ⟨rfl, (busyHost_does op).1, (by decide : decode 0x00000001 = .ok .ecbDecryptCore), rfl, rfl, rfl, rfl⟩, by decide, by decide⟩

/-- Obligations.HostDataAccess: the bytes next to the windows of a running command; the first and the last byte of the register block
and of a device, idle, and busy with the byte in neither window. -/
theorem witness_HostDataAccess :
    (∀ op, (idleHost op).hostDoes op ∧ (busyHost op).hostDoes op) ∧
    (∀ a ∈ [0x0FF, 0x110, 0x1FF, 0x210], ∀ op ∈ [HostOp.memRead (BitVec.ofNat 32 a), .memWrite (BitVec.ofNat 32 a) 1],
      (busyHost op).chip.plain a = true ∧ (busyHost op).runningOutput a = false ∧ (busyHost op).runningInput a = false ∧
      ((busyHost op).mark a).outdated = false) ∧
    (∀ a ∈ [0xF0000000, 0xF0000FFF], ∀ s ∈ [idleHost (.memRead (BitVec.ofNat 32 a)), busyHost (.memWrite (BitVec.ofNat 32 a) 1)],
      s.chip.ownBlock a = true ∧ s.runningInput a = false ∧ s.runningOutput a = false) ∧
    (∀ a ∈ [0x20000, 0x200FF], ∀ s ∈ [idleHost (.memRead (BitVec.ofNat 32 a)), busyHost (.memWrite (BitVec.ofNat 32 a) 1)],
      deviceChip.ownBlock a = false ∧ deviceChip.deviceAt a = true ∧ ({ s with chip := deviceChip } : State).runningInput a = false ∧
      ({ s with chip := deviceChip } : State).runningOutput a = false) :=
  ⟨fun op => ⟨(idleHost_does op).1, (busyHost_does op).1⟩, by decide +kernel, by decide +kernel, by decide +kernel⟩

/-- Cache maintenance of the byte at `a` of a platform that is not coherent, the host having written that byte, while ECB_DECRYPT.CORE
is running. -/
def maintaining (a : Nat) : State :=
  { busyHost (.cacheClean (BitVec.ofNat 32 a) 1) with chip := cachedChip, cache := [(a, .dirty)] }

/-- Obligations.CacheMaintenance: it races at the two ends of both windows and not beside them, nor while idle. -/
theorem witness_CacheMaintenance :
    (∀ op, (idleHost op).hostDoes op ∧ (busyHost op).hostDoes op) ∧
    (∀ a ∈ [0x100, 0x10F, 0x200, 0x20F], (maintaining a).MaintenanceRaces a 1) ∧
    (∀ a ∈ [0x0FF, 0x110, 0x1FF, 0x210], ¬ (maintaining a).MaintenanceRaces a 1) ∧
    (∀ a ∈ [0x100, 0x20F], ¬ ({ maintaining a with busy := false } : State).MaintenanceRaces a 1) := by
  unfold State.MaintenanceRaces
  refine ⟨fun op => ⟨(idleHost_does op).1, (busyHost_does op).1⟩, fun a ha => ⟨0, Nat.one_pos, ?_⟩, ?_, ?_⟩
  · revert a; decide +kernel
  · rintro a ha ⟨k, hk, h⟩
    obtain rfl : k = 0 := by omega
    revert a; decide +kernel
  · rintro a ha ⟨k, hk, h⟩
    obtain rfl : k = 0 := by omega
    revert a; decide +kernel

/-- Obligations.WaitsRepeatUntilMet: a POLL of STATUS.BUSY and a wait for the IRQ, met and not met. -/
theorem witness_WaitsRepeatUntilMet :
    (0x008 : BitVec 12).toNat % 4 = 0 ∧
    ((idleHost (.poll 0x008 1 0)).hostDoes (.poll 0x008 1 0) ∧ (idleHost (.poll 0x008 1 0)).readRegister 0x008 &&& 1 = 0) ∧
    ((busyHost (.poll 0x008 1 0)).hostDoes (.poll 0x008 1 0) ∧ (busyHost (.poll 0x008 1 0)).readRegister 0x008 &&& 1 ≠ 0) ∧
    (({ idleHost .waitIrq with irqEn := true, done := true } : State).hostDoes .waitIrq ∧
      ({ idleHost .waitIrq with irqEn := true, done := true } : State).irq = true) ∧
    ((busyHost .waitIrq).hostDoes .waitIrq ∧ (busyHost .waitIrq).irq = false) :=
  ⟨by decide, ⟨⟨rfl, rfl⟩, by decide +kernel⟩, ⟨⟨rfl, rfl⟩, by decide +kernel⟩, ⟨⟨rfl, rfl⟩, rfl⟩, ⟨rfl, rfl⟩, rfl⟩

/-- Obligations.StepKeepsInvariant: a state of the invariant with a valid stored byte, an error recorded, and a next state. -/
theorem witness_StepKeepsInvariant : ∃ s t, s.Inv ∧ step s = .next t :=
  ⟨{ idleHost (.memWrite 0x10 0xAA) with mem := [(0x11, 0x01)], err := true, done := true, errCode := 8, errInfo := 0x11 }, _,
    { mem_wf := by decide +kernel
      cache_wf := by decide +kernel
      busy_clear := by intro h; cases h
      err_code := by decide +kernel
      code_le := by decide +kernel
      code_outLen := by decide +kernel
      code_info := by decide +kernel
      box_perm := by intro h; cases h }, rfl⟩

/-- Obligations.ChipNeverChanges. -/
theorem witness_ChipNeverChanges : ∃ t, step State.reset = .next t := ⟨_, rfl⟩

/-- Obligations.KeyBoxChangesOnlyByBuildOrReset: KB_VALID set by KEYBOX_BUILD, cleared by SRST and by power-on reset. -/
theorem witness_KeyBoxChangesOnlyByBuildOrReset :
    (after (step (ready 3 0x100 0 1 []))).map (·.kbValid) = some true ∧ (ready 3 0x100 0 1 []).kbValid = false ∧
    (∃ t, step { idleHost (.regWrite 0x004 .word 0x2) with kbValid := true } = .next t ∧ t.kbValid ≠ true) ∧
    (∃ t, step { idleHost .powerOnReset with kbValid := true } = .next t ∧ t.kbValid ≠ true) :=
  ⟨by decide +kernel, rfl, ⟨_, rfl, Bool.false_ne_true⟩, ⟨_, rfl, Bool.false_ne_true⟩⟩

/-- Obligations.StreamPosChangesOnlyByItsWriters: each of its writers. -/
theorem witness_StreamPosChangesOnlyByItsWriters :
    (after (step { ready 3 0x100 0 1 [] with streamPos := 9 })).map (·.streamPos) = some 1 ∧
    (after (step (readyStream 9 0x100 0x200 1 []))).map (·.streamPos) = some 10 ∧
    (after (step (idleHost (.regWrite 0x020 .word 7)))).map (·.streamPos) = some 7 ∧ (idleHost (.regWrite 0x020 .word 7)).streamPos = 1 ∧
    (after (step { idleHost (.regWrite 0x004 .word 2) with streamPos := 9 })).map (·.streamPos) = some 1 := by decide +kernel

/-- Obligations.UnbuiltKeyBoxIsUnobservable: a step, a fault and a refusal with KB_VALID = 0. -/
theorem witness_UnbuiltKeyBoxIsUnobservable :
    (State.reset.kbValid = false ∧ ∃ t, step State.reset = .next t) ∧
    (∃ f, (busyHost (.memWrite 0x100 1)).kbValid = false ∧ step (busyHost (.memWrite 0x100 1)) = .fault f) ∧
    (∃ r, ({ idleHost (.memRead 0x20000) with chip := deviceChip } : State).kbValid = false ∧
      step { idleHost (.memRead 0x20000) with chip := deviceChip } = .refused r) :=
  ⟨⟨rfl, _, rfl⟩, ⟨_, rfl, rfl⟩, ⟨_, rfl, rfl⟩⟩

/-- Obligations.AcceptedCommandCompletes: with host turns scheduled first, and with no host access and plain windows. -/
theorem witness_AcceptedCommandCompletes :
    (busyHost .waitIrq).busy = true ∧
    ((ready 1 0x100 0x200 16 []).busy = true ∧ (ready 1 0x100 0x200 16 []).host = [] ∧
      ∀ i, decode (ready 1 0x100 0x200 16 []).cmd = .ok i → windowsPlain i (ready 1 0x100 0x200 16 []) = true) :=
  ⟨rfl, rfl, rfl, by intro i; cases i <;> decide +kernel⟩

end Sys2Proof.Tests
end

section
/-! SUPPORT. No step changes the platform's parameters (00_scope.md R6, 44_key_unwrap.md R171). -/

namespace Sys2Proof.Machine

variable (s : State)

/-! ### The host's accesses leave the chip -/

@[simp] theorem resetEngine_chip : s.resetEngine.chip = s.chip := by simp [State.resetEngine, State.abort]

@[simp] theorem cleanByte_chip (a : Nat) : (s.cleanByte a).chip = s.chip := by rw [cleanByte_eq]

@[simp] theorem invalidateByte_chip (a : Nat) : (s.invalidateByte a).chip = s.chip := by rw [invalidateByte_eq]

@[simp] theorem acknowledge_chip (v : Word) : (s.acknowledge v).chip = s.chip := by
  rcases acknowledge_cases s v with ⟨-, h⟩ | ⟨-, h⟩ <;> rw [h]

@[simp] theorem writeCtrl_chip (v : Word) : (s.writeCtrl v).chip = s.chip := by
  rcases writeCtrl_cases s v with ⟨-, h⟩ | ⟨-, -, -, h⟩ | ⟨-, -, h⟩ <;> simp [h]

@[simp] theorem writeRegister_chip (offset : BitVec 12) (v : Word) : (s.writeRegister offset v).chip = s.chip := by
  rcases writeRegister_cases s offset v with h | h | h | ⟨-, h⟩
  · simp [h]
  · simp [h]
  · rw [h]
  · rw [h]

@[simp] theorem hostRegWrite_chip (offset : BitVec 12) (size : AccessSize) (v : Word) :
    (s.hostRegWrite offset size v).chip = s.chip := by
  unfold State.hostRegWrite
  split
  · exact writeRegister_chip s offset v
  · rfl

variable {s} {t : State}

theorem hostMemRead_chip {a : Nat} (h : s.hostMemRead a = .next t) : t.chip = s.chip := by
  obtain ⟨-, r, rfl⟩ := hostMemRead_cases h
  rfl

theorem hostMemWrite_chip {a : Nat} {b : Byte} (h : s.hostMemWrite a b = .next t) : t.chip = s.chip := by
  obtain ⟨-, -, rfl | rfl⟩ := hostMemWrite_cases h
  · rfl
  · exact setMark_chip s a .dirty

/-- Maintenance over a range leaves the chip when that of each byte does. -/
theorem maintain_chip {op : State → Nat → State} (hop : ∀ s a, (op s a).chip = s.chip) {a n : Nat}
    (h : s.maintain op a n = .next t) : t.chip = s.chip := by
  rw [maintain_cases h]
  exact foldl_keeps (P := fun u => u.chip = s.chip) (fun u x hu => (hop u x).trans hu) rfl _

/-! ### The turns leave the chip -/

theorem hostAccess_chip {op : HostOp} (h : hostAccess op s = .next t) : t.chip = s.chip := by
  cases op with
  | regRead offset size => cases h; rfl
  | regWrite offset size v => cases h; exact hostRegWrite_chip s.popHost offset size v
  | poll offset mask value =>
    simp only [hostAccess] at h
    split at h
    · cases h; rfl
    · cases h; rfl
  | waitIrq =>
    simp only [hostAccess] at h
    split at h
    · cases h; rfl
    · cases h; rfl
  | memRead addr => exact hostMemRead_chip (s := s.popHost) h
  | memWrite addr b => exact hostMemWrite_chip (s := s.popHost) h
  | cacheClean addr n => exact maintain_chip (s := s.popHost) cleanByte_chip h
  | cacheInvalidate addr n => exact maintain_chip (s := s.popHost) invalidateByte_chip h
  | software => cases h; rfl
  | powerOnReset => cases h; exact resetEngine_chip s.popHost

theorem hostStep_chip (h : hostStep s = .next t) : t.chip = s.chip := by
  rcases hostStep_cases s with ⟨-, he⟩ | ⟨op, -, -, he⟩ <;> rw [he] at h
  · cases h; rfl
  · exact hostAccess_chip h

theorem engineStep_chip (h : engineStep s = .next t) : t.chip = s.chip := by
  rcases engineStep_cases s with ⟨-, he⟩ | ⟨-, i, -, he⟩ | ⟨-, e, -, he⟩ <;> rw [he] at h
  · cases h; rfl
  · exact exec_chip h
  · cases h; rfl

/-- Settles O56: the two agents' turns both leave the chip, and so does the bookkeeping of a step. -/
theorem chipNeverChanges : Obligations.ChipNeverChanges := by
  intro s t h
  rcases step_cases s with ⟨-, he⟩ | ⟨-, he⟩ <;> rw [he] at h
  · exact hostStep_chip (s := s.tick) h
  · exact engineStep_chip (s := s.tick) h

end Sys2Proof.Machine
end

section
/-! SUPPORT. What one step can do to the state, said once for the statements about every step: an access of the host has one of seven
effects, and a busy engine runs its command. -/

namespace Sys2Proof.Machine

/-! ### The host's accesses -/

/-- The access resets the engine: a CTRL write with SRST, or the reset input (70_reset_and_hazards.md R240, R241). -/
def HostOp.resets (op : HostOp) : Prop := (∃ v : Word, op = .regWrite 0x004 .word v ∧ v.getLsbD 1 = true) ∨ op = .powerOnReset

/-- `t` differs from `s` in the operand registers and the answer only (10_state.md R25 to R29). -/
def OperandsOnly (s t : State) : Prop :=
  t = { s with cmd := t.cmd, src := t.src, dst := t.dst, len := t.len, streamPos := t.streamPos, answer := t.answer }

/-- `t` differs from `s` in data memory, the cache marks and the answer only, and both stay in canonical form. -/
def MemoryOnly (s t : State) : Prop :=
  t = { s with mem := t.mem, cache := t.cache, answer := t.answer } ∧
    (s.mem.wf → s.cache.wf → t.mem.wf ∧ t.cache.wf)

/-- Everything the host's access `op` can do when it takes the machine from `s` to `t`. -/
inductive HostEffect (op : HostOp) (s t : State) : Prop
  /-- Only the host's own fields change. -/
  | bookkeeping (h : t = { s with host := t.host, answer := t.answer })
  /-- The engine is reset. -/
  | reset (hop : op.resets) (h : t = { s.popHost.resetEngine with answer := t.answer })
  /-- Only IRQ_EN is written. -/
  | irqEnable (h : t = { s.popHost with irqEn := t.irqEn, answer := t.answer })
  /-- IRQ_EN is written and a START is accepted. -/
  | start (h : t = { s.popHost.acceptStart with irqEn := t.irqEn, answer := t.answer })
  /-- DONE and ERR of an idle engine may be cleared. -/
  | acknowledge (idle : s.busy = false) (herr : t.err = true → s.err = true)
      (h : t = { s.popHost with done := t.done, err := t.err, answer := t.answer })
  /-- An operand register of an idle engine is written. -/
  | operands (idle : s.busy = false) (hpos : t.streamPos = s.streamPos ∨ op = .regWrite 0x020 .word t.streamPos)
      (h : OperandsOnly s.popHost t)
  /-- Data memory or the host's caches are written. -/
  | memory (h : MemoryOnly s.popHost t)

theorem MemoryOnly.refl (s : State) : MemoryOnly s s := ⟨rfl, fun hm hc => ⟨hm, hc⟩⟩

theorem MemoryOnly.trans {s t u : State} (h₁ : MemoryOnly s t) (h₂ : MemoryOnly t u) : MemoryOnly s u := by
  obtain ⟨e₁, w₁⟩ := h₁
  obtain ⟨e₂, w₂⟩ := h₂
  refine ⟨?_, fun hm hc => w₂ (w₁ hm hc).1 (w₁ hm hc).2⟩
  rw [e₂, e₁]

theorem MemoryOnly.withAnswer {s t : State} (h : MemoryOnly s t) (r : HostAnswer) : MemoryOnly s { t with answer := r } := by
  obtain ⟨e, w⟩ := h
  exact ⟨by rw [e], w⟩

theorem cleanByte_memoryOnly (s : State) (a : Nat) : MemoryOnly s (s.cleanByte a) :=
  ⟨by rw [cleanByte_eq], fun hm hc => cleanByte_keeps hm hc a⟩

theorem invalidateByte_memoryOnly (s : State) (a : Nat) : MemoryOnly s (s.invalidateByte a) :=
  ⟨by rw [invalidateByte_eq], fun hm hc => invalidateByte_keeps hm hc a⟩

/-- Maintenance over a range changes memory and the marks only when that of each byte does. -/
theorem maintain_memoryOnly {op : State → Nat → State} (hop : ∀ s a, MemoryOnly s (op s a)) {s t : State} {a n : Nat}
    (h : s.maintain op a n = .next t) : MemoryOnly s t := by
  rw [maintain_cases h]
  exact (foldl_keeps (P := MemoryOnly s) (fun u x hu => hu.trans (hop u x)) (.refl s) _).withAnswer _

theorem hostMemWrite_memoryOnly {s t : State} {a : Nat} {b : Byte} (ha : a < addressSpace) (h : s.hostMemWrite a b = .next t) :
    MemoryOnly s t := by
  obtain ⟨-, -, rfl | rfl⟩ := hostMemWrite_cases h
  · exact (MemoryOnly.refl s).withAnswer _
  · refine ⟨?_, fun hm hc => ⟨write_wf hm ha b, setMark_cache_wf hc (.inl ha)⟩⟩
    unfold State.setMark
    split <;> rfl

/-- A write of an operand register writes it when the engine is idle, and nothing otherwise (40_control.md R101). -/
theorem whenIdle_cases (s t : State) : s.whenIdle t = s ∨ (s.busy = false ∧ s.whenIdle t = t) := by
  unfold State.whenIdle
  cases s.busy <;> simp

/-- A write of CTRL is one of the first effects: a reset, an accepted START, or IRQ_EN alone (10_state.md R23). -/
theorem hostEffect_writeCtrl (s : State) (v : Word) :
    HostEffect (.regWrite 0x004 .word v) s { s.popHost.writeCtrl v with answer := .accepted } := by
  rcases writeCtrl_cases s.popHost v with ⟨hv, h⟩ | ⟨-, -, -, h⟩ | ⟨-, -, h⟩ <;> rw [h]
  · exact .reset (.inl ⟨v, rfl, hv⟩) rfl
  · exact .start rfl
  · exact .irqEnable rfl

/-- A write of STATUS clears flags of an idle engine, or does nothing (10_state.md R24). -/
theorem hostEffect_acknowledge (op : HostOp) (s : State) (v : Word) :
    HostEffect op s { s.popHost.acknowledge v with answer := .accepted } := by
  rcases acknowledge_cases s.popHost v with ⟨-, h⟩ | ⟨hb, h⟩ <;> rw [h]
  · exact .bookkeeping rfl
  · exact .acknowledge hb (fun he => ((Bool.and_eq_true _ _).mp he).1) rfl

/-- A write that an idle engine answers by `u`, in which operand registers only differ, writes those or does nothing. -/
theorem hostEffect_whenIdle {op : HostOp} {s u : State} (hu : OperandsOnly s.popHost u)
    (hpos : u.streamPos = s.streamPos ∨ op = .regWrite 0x020 .word u.streamPos) :
    HostEffect op s { s.popHost.whenIdle u with answer := .accepted } := by
  rcases whenIdle_cases s.popHost u with h | ⟨hb, h⟩ <;> rw [h]
  · exact .bookkeeping rfl
  · exact .operands hb hpos (by unfold OperandsOnly at *; rw [hu])

theorem hostEffect_writeRegister (s : State) (offset : BitVec 12) (v : Word) :
    HostEffect (.regWrite offset .word v) s { s.popHost.writeRegister offset v with answer := .accepted } := by
  unfold State.writeRegister
  split
  · rename_i ho; subst ho; exact hostEffect_writeCtrl s v
  split
  · exact hostEffect_acknowledge _ s v
  iterate 4
    split
    · exact hostEffect_whenIdle rfl (.inl rfl)
  split
  · rename_i ho; subst ho; exact hostEffect_whenIdle rfl (.inr rfl)
  · exact .bookkeeping rfl

theorem hostEffect_regWrite (s : State) (offset : BitVec 12) (size : AccessSize) (v : Word) :
    HostEffect (.regWrite offset size v) s (s.popHost.hostRegWrite offset size v) := by
  unfold State.hostRegWrite
  split
  · rename_i ha
    obtain rfl : size = .word := by simpa using ((Bool.and_eq_true _ _).mp ha).1
    exact hostEffect_writeRegister s offset v
  · exact .bookkeeping rfl

/-- The inversion of the host's access. -/
theorem hostAccess_effect {op : HostOp} {s t : State} (h : hostAccess op s = .next t) : HostEffect op s t := by
  cases op with
  | regRead offset size => cases h; exact .bookkeeping rfl
  | regWrite offset size v => cases h; exact hostEffect_regWrite s offset size v
  | poll offset mask value =>
    simp only [hostAccess] at h
    split at h
    · cases h; exact .bookkeeping rfl
    · cases h; exact .bookkeeping rfl
  | waitIrq =>
    simp only [hostAccess] at h
    split at h
    · cases h; exact .bookkeeping rfl
    · cases h; exact .bookkeeping rfl
  | memRead addr =>
    obtain ⟨-, r, rfl⟩ := hostMemRead_cases h
    exact .bookkeeping rfl
  | memWrite addr b => exact .memory (hostMemWrite_memoryOnly addr.isLt h)
  | cacheClean addr n => exact .memory (maintain_memoryOnly cleanByte_memoryOnly h)
  | cacheInvalidate addr n => exact .memory (maintain_memoryOnly invalidateByte_memoryOnly h)
  | software => cases h; exact .bookkeeping rfl
  | powerOnReset => cases h; exact .reset (.inr rfl) rfl

/-! ### The step -/

/-- When the host makes an access, the step is that access on the ticked state. -/
theorem step_of_hostDoes {s : State} {op : HostOp} (h : s.hostDoes op) : step s = hostAccess op s.tick := by
  obtain ⟨hm, ho⟩ := h
  obtain ⟨rest, hr⟩ := List.head?_eq_some_iff.1 ho
  rcases step_cases s with ⟨-, he⟩ | ⟨he, -⟩
  · rw [he, hostStep, show s.tick.host = op :: rest from hr]
  · rw [hm] at he; cases he

/-- The inversion of the step: only the bookkeeping, one access of the host, or the command of a busy engine. -/
theorem step_effect {s t : State} (h : step s = .next t) :
    t = s.tick ∨ (∃ op, s.hostDoes op ∧ HostEffect op s.tick t) ∨
      (s.engineMoves ∧ ((∃ e, t = s.tick.raise e) ∨ ∃ i, decode s.cmd = .ok i ∧ exec i s.tick = .next t)) := by
  rcases step_cases s with ⟨hm, he⟩ | ⟨hm, he⟩ <;> rw [he] at h
  · rcases hostStep_cases s.tick with ⟨-, he⟩ | ⟨op, rest, ho, he⟩ <;> rw [he] at h
    · cases h; exact .inl rfl
    · exact .inr (.inl ⟨op, ⟨hm, List.head?_eq_some_iff.2 ⟨rest, ho⟩⟩, hostAccess_effect h⟩)
  · rcases engineStep_cases s.tick with ⟨-, he⟩ | ⟨hb, i, hi, he⟩ | ⟨hb, e, -, he⟩ <;> rw [he] at h
    · cases h; exact .inl rfl
    · exact .inr (.inr ⟨⟨hm, hb⟩, .inr ⟨i, hi, h⟩⟩)
    · cases h; exact .inr (.inr ⟨⟨hm, hb⟩, .inl ⟨_, rfl⟩⟩)

end Sys2Proof.Machine
end

section
/-! SUPPORT. The host's aligned register accesses (10_state.md section 2): what a step that makes one leaves, and what each register
reads and stores. -/

namespace Sys2Proof.Machine

variable {s : State} {o : BitVec 12} {v : Word}

/-! ### The step of a register access -/

theorem accessAccepted_word (ho : o.toNat % 4 = 0) : accessAccepted o .word = true := by
  simp [accessAccepted, ho]

/-- An aligned read answers the register's value and changes nothing else (20_memory.md R60). -/
theorem step_regRead (ho : o.toNat % 4 = 0) (h : s.hostDoes (.regRead o .word)) :
    step s = .next { s.afterAccess with answer := .word (s.readRegister o) } := by
  rw [step_of_hostDoes h, hostAccess, State.registerAnswer, if_pos (accessAccepted_word ho)]
  rfl

/-- An aligned write is accepted, and does to the state what the register does. -/
theorem step_regWrite (ho : o.toNat % 4 = 0) (h : s.hostDoes (.regWrite o .word v)) :
    step s = .next { s.afterAccess.writeRegister o v with answer := .accepted } := by
  rw [step_of_hostDoes h, hostAccess, State.hostRegWrite, if_pos (accessAccepted_word ho)]
  rfl

/-! ### What the registers read -/

/-- KEYBOX_WIN stands at offsets 0x100 to 0x1FC (10_state.md R31). -/
theorem readRegister_window (h₁ : 0x100 ≤ o.toNat) (h₂ : o.toNat < 0x200) (s : State) :
    s.readRegister o = s.keyboxWin (o.extractLsb' 2 6) := by
  have ne (k : BitVec 12) (hk : k.toNat < 0x100) : o ≠ k := by rintro rfl; omega
  simp [State.readRegister, ne, h₁, h₂]

/-- Reserved offsets read 0 (10_state.md R37). -/
theorem readRegister_reserved (h : (0x02C ≤ o.toNat ∧ o.toNat ≤ 0x0FC) ∨ (0x200 ≤ o.toNat ∧ o.toNat ≤ 0xFFC)) (s : State) :
    s.readRegister o = 0 := by
  have ne (k : BitVec 12) (hk : k.toNat < 0x02C) : o ≠ k := by rintro rfl; omega
  have outside : ¬ (0x100 ≤ o.toNat ∧ o.toNat < 0x200) := by omega
  simp [State.readRegister, ne, if_neg outside]

/-- The registers that can be written stand at offsets 0x004 to 0x018 and 0x020 (10_state.md section 2). -/
theorem writeRegister_ignored (h : o.toNat = 0 ∨ o.toNat = 0x01C ∨ 0x020 < o.toNat) (s : State) (v : Word) :
    s.writeRegister o v = s := by
  have ne (k : BitVec 12) (hk : k.toNat ≠ 0 ∧ k.toNat ≠ 0x01C ∧ k.toNat ≤ 0x020) : o ≠ k := by rintro rfl; omega
  simp [State.writeRegister, ne]

theorem step_regWrite_ignored (ho : o.toNat % 4 = 0) (hi : o.toNat = 0 ∨ o.toNat = 0x01C ∨ 0x020 < o.toNat)
    (h : s.hostDoes (.regWrite o .word v)) : step s = .next { s.afterAccess with answer := .accepted } := by
  rw [step_regWrite ho h, writeRegister_ignored hi]

/-- Settles O37: offset 0x000 reads ID_VALUE and is none of the offsets that a write reaches. -/
theorem idRegister : Obligations.IdRegister :=
  ⟨fun _ h => step_regRead rfl h, fun _ _ h => step_regWrite_ignored rfl (.inl rfl) h⟩

/-- Settles O38: a reserved offset is none of a register's. -/
theorem reservedOffsets : Obligations.ReservedOffsets := by
  intro s o v ho hr
  constructor
  · intro h; rw [step_regRead ho h, readRegister_reserved hr]
  · exact step_regWrite_ignored ho (by omega)

/-- Settles O41: each register's value is what its offset reads. -/
theorem registerReadValues : Obligations.RegisterReadValues := fun _ =>
  ⟨step_regRead rfl, step_regRead rfl, step_regRead rfl, step_regRead rfl, step_regRead rfl, step_regRead rfl, step_regRead rfl,
    step_regRead rfl⟩

/-! ### Operand registers -/

/-- A write of an operand register of an idle engine leaves the state `t` that the register's case of `writeRegister` names. -/
theorem step_operandWrite (ho : o.toNat % 4 = 0) (hb : s.busy = false) (t : State)
    (hw : s.afterAccess.writeRegister o v = s.afterAccess.whenIdle t) (h : s.hostDoes (.regWrite o .word v)) :
    step s = .next { t with answer := .accepted } := by
  have idle : s.afterAccess.whenIdle t = t := if_neg (by rw [show s.afterAccess.busy = false from hb]; exact Bool.false_ne_true)
  rw [step_regWrite ho h, hw, idle]

/-- Settles O42: the five operand registers take the value while idle, and OUT_LEN, ERR_CODE and ERR_INFO are not written. -/
theorem idleOperandWrites : Obligations.IdleOperandWrites := by
  intro s v
  refine ⟨fun hb => ⟨?_, ?_, ?_, ?_, ?_⟩, fun o ho => ?_⟩
  · exact step_operandWrite rfl hb { s.afterAccess with cmd := v } rfl
  · exact step_operandWrite rfl hb { s.afterAccess with src := v } rfl
  · exact step_operandWrite rfl hb { s.afterAccess with dst := v } rfl
  · exact step_operandWrite rfl hb { s.afterAccess with len := v } rfl
  · exact step_operandWrite rfl hb { s.afterAccess with streamPos := v } rfl
  · rcases ho with rfl | rfl | rfl
    · exact step_regWrite_ignored rfl (by decide)
    · exact step_regWrite_ignored rfl (by decide)
    · exact step_regWrite_ignored rfl (by decide)

/-! ### CTRL and STATUS -/

theorem writeCtrl_of_srst (h1 : ctrlSrst v = true) (s : State) : s.writeCtrl v = s.resetEngine := by
  simp [State.writeCtrl, h1]

theorem writeCtrl_of_start (h1 : ctrlSrst v = false) (h0 : ctrlStart v = true) (hb : s.busy = false) :
    s.writeCtrl v = (s.setIrqEn (ctrlIrqEn v)).acceptStart := by
  simp [State.writeCtrl, h1, h0, hb]

theorem writeCtrl_of_irqEn (h1 : ctrlSrst v = false) (h : ctrlStart v = false ∨ s.busy = true) :
    s.writeCtrl v = s.setIrqEn (ctrlIrqEn v) := by
  rcases h with h | h <;> simp [State.writeCtrl, h1, h]

/-- Settles O43: the read value is `ctrlWord`, and the three cases of a write are those of `writeCtrl`. -/
theorem ctrlRegister : Obligations.CtrlRegister := by
  refine fun s => ⟨step_regRead rfl, fun v h => ?_⟩
  have hstep : step s = .next { s.afterAccess.writeCtrl v with answer := .accepted } := step_regWrite rfl h
  rw [hstep]
  refine ⟨fun h1 => ?_, fun h1 h0 => ?_, fun h1 h0 hb => ?_⟩
  · rw [writeCtrl_of_srst h1]
  · rw [writeCtrl_of_irqEn (s := s.afterAccess) h1 h0]; rfl
  · rw [writeCtrl_of_start (s := s.afterAccess) h1 h0 hb]; rfl

/-- The flags of STATUS stand at bits 0 to 3 (10_state.md R24). -/
theorem statusWord_toNat (s : State) :
    s.statusWord.toNat = s.busy.toNat + 2 * s.done.toNat + 4 * s.err.toNat + 8 * s.kbValid.toNat := by
  have flags : ∀ b d e k : Bool, (flagAt 0 b ||| flagAt 1 d ||| flagAt 2 e ||| flagAt 3 k).toNat =
      b.toNat + 2 * d.toNat + 4 * e.toNat + 8 * k.toNat := by decide
  exact flags s.busy s.done s.err s.kbValid

/-- Settles O45: STATUS reads its flags, and its write is the host's acknowledgement. -/
theorem statusRegister : Obligations.StatusRegister := by
  refine fun s => ⟨fun h => ⟨s.statusWord, step_regRead rfl h, statusWord_toNat s⟩, fun v h hb => ?_⟩
  have hstep : step s = .next { s.afterAccess.acknowledge v with answer := .accepted } := step_regWrite rfl h
  rcases acknowledge_cases s.afterAccess v with ⟨hbusy, -⟩ | ⟨-, ha⟩
  · exact absurd (hb.symm.trans hbusy) Bool.false_ne_true
  · rw [hstep, ha]
    rfl

/-! ### KEYBOX_WIN -/

/-- The offset of `KEYBOX_WIN[m]` holds `m` in its six bits from bit 2 on, so that entry `4m + k` is the one numbered by them and `k`. -/
theorem boxGet_window (box : KeyBox) {m k : Nat} (hm : m ≤ 63) (ho : o.toNat = 0x100 + 4 * m) (hk : k < 4) :
    boxGet box (o.extractLsb' 2 6 ++ BitVec.ofNat 2 k) = box[4 * m + k] := by
  have hn : (o.extractLsb' 2 6 ++ BitVec.ofNat 2 k).toNat = 4 * m + k := by
    rw [BitVec.toNat_append, BitVec.toNat_ofNat, ← Nat.shiftLeft_add_eq_or_of_lt (Nat.mod_lt _ (by decide)),
      BitVec.extractLsb'_toNat, ho, Nat.shiftLeft_eq, Nat.shiftRight_eq_div_pow]
    omega
  simp [boxGet, hn]

/-- Four bytes side by side as a word, the last in the least significant place: the two sides agree bit by bit. -/
theorem append_bytes (a b c d : Byte) :
    (d ++ c ++ b ++ a : Word) = a.setWidth 32 ||| b.setWidth 32 <<< 8 ||| c.setWidth 32 <<< 16 ||| d.setWidth 32 <<< 24 := by
  ext i hi
  grind

/-- The word of `KEYBOX_WIN[m]`: entries `4m` to `4m + 3`, the lowest in the least significant byte (10_state.md R31). -/
theorem keyboxWord_eq (box : KeyBox) {m : Nat} (hm : m ≤ 63) (ho : o.toNat = 0x100 + 4 * m) :
    keyboxWord box (o.extractLsb' 2 6) =
      (box[4 * m]).setWidth 32 ||| (box[4 * m + 1]).setWidth 32 <<< 8 ||| (box[4 * m + 2]).setWidth 32 <<< 16 |||
        (box[4 * m + 3]).setWidth 32 <<< 24 := by
  have entry (k : Nat) (hk : k < 4) := boxGet_window box hm ho hk
  rw [keyboxWord, entry 3 (by decide), entry 2 (by decide), entry 1 (by decide), entry 0 (by decide), append_bytes]
  rfl

/-- KEYBOX_WIN reads 0 while the key box is not valid or the engine is busy (10_state.md R31). -/
theorem keyboxWin_of_hidden (h : s.kbValid = false ∨ s.busy = true) (m : BitVec 6) : s.keyboxWin m = 0 := by
  rcases h with h | h <;> simp [State.keyboxWin, h]

/-- Settles O39: the offset lies in the window, whose word is `keyboxWord` or 0, and which ignores writes. -/
theorem keyboxWindow : Obligations.KeyboxWindow := by
  intro s m hm o ho
  have aligned : o.toNat % 4 = 0 := by omega
  have hread : s.readRegister o = s.keyboxWin (o.extractLsb' 2 6) := readRegister_window (by omega) (by omega) s
  refine ⟨fun h hv hb => ⟨_, step_regRead aligned h, ?_⟩, fun h hh => ?_, fun v => step_regWrite_ignored aligned (by omega)⟩
  · rw [hread, State.keyboxWin, if_pos (by simp [hv, hb]), keyboxWord_eq s.keybox hm ho]
  · rw [step_regRead aligned h, hread, keyboxWin_of_hidden hh]

end Sys2Proof.Machine
end

section
/-! SUPPORT. The key box that KEYBOX_BUILD makes is a permutation (42_keybox.md R151): each iteration swaps two entries. -/

namespace Sys2Proof.Machine

/-- A key box is a permutation when its entries are a bijection of the bytes. -/
theorem isPermutation_iff_bijective (box : KeyBox) : KeyBox.IsPermutation box ↔ Function.Bijective (boxGet box) :=
  (Function.bijective_iff_existsUnique _).symm

theorem boxGet_boxSet (box : KeyBox) (i j v : Byte) : boxGet (boxSet box i v) j = if j = i then v else boxGet box j := by
  unfold boxGet boxSet
  rw [Vector.getElem_set]
  by_cases h : j = i
  · simp [h]
  · rw [if_neg h, if_neg fun ht => h (BitVec.eq_of_toNat_eq ht.symm)]

@[simp] theorem boxGet_identityBox (i : Byte) : boxGet identityBox i = i := by
  simp [boxGet, identityBox]

theorem identityBox_bijective : Function.Bijective (boxGet identityBox) := by
  rw [show boxGet identityBox = id from funext boxGet_identityBox]
  exact Function.bijective_id

/-- The two writes of an iteration swap the entries `i` and `c` (42_keybox.md R150). -/
theorem boxGet_swap (box : KeyBox) (i c : Byte) :
    boxGet (boxSet (boxSet box i (boxGet box c)) c (boxGet box i)) = boxGet box ∘ Equiv.swap i c := by
  funext j
  rw [boxGet_boxSet, boxGet_boxSet, Function.comp_apply, Equiv.swap_apply_def]
  by_cases hi : j = i
  · subst hi
    by_cases hc : j = c <;> simp [hc]
  · by_cases hc : j = c
    · subst hc; simp [hi]
    · simp [hi, hc]

theorem buildStep_bijective {km : List Byte} {st : BoxLoop} (h : Function.Bijective (boxGet st.box)) (i : Nat) :
    Function.Bijective (boxGet (buildStep km st i).box) := by
  simp only [buildStep, boxGet_swap]
  exact h.comp (Equiv.bijective _)

/-- The builder's result is a permutation for every key material (42_keybox.md R151). -/
theorem buildKeyBox_isPermutation (km : List Byte) : KeyBox.IsPermutation (buildKeyBox km) := by
  rw [isPermutation_iff_bijective]
  exact List.foldlRecOn (motive := fun st : BoxLoop => Function.Bijective (boxGet st.box)) _ _ identityBox_bijective
    fun _ h i _ => buildStep_bijective h i

end Sys2Proof.Machine
end

section
/-! SUPPORT. The invariant of every state (O54), kept by each effect of a step. -/

namespace Sys2Proof.Machine

variable {s t : State}

/-! ### Errors -/

theorem CmdError.code_ne_zero (e : CmdError) : e.code ≠ 0 := by cases e <;> simp [CmdError.code]

theorem CmdError.code_le (e : CmdError) : e.code.toNat ≤ 8 := by cases e <;> simp [CmdError.code]

/-! ### What the host does keeps the invariant -/

theorem State.Inv.tick (hi : s.Inv) : s.tick.Inv := { hi with }

theorem State.Inv.popHost (hi : s.Inv) : s.popHost.Inv := { hi with }

theorem State.Inv.bookkeeping (hi : s.Inv) (h : List HostOp) (r : HostAnswer) : { s with host := h, answer := r }.Inv := { hi with }

theorem State.Inv.irqEnable (hi : s.Inv) (b : Bool) (r : HostAnswer) : { s with irqEn := b, answer := r }.Inv := { hi with }

/-- After a reset the flags, codes and lengths are 0 and the key box is not valid (70_reset_and_hazards.md R240). -/
theorem State.Inv.resetEngine (hi : s.Inv) : s.resetEngine.Inv where
  mem_wf := resetEngine_mem_wf hi.mem_wf
  cache_wf := resetEngine_cache_wf hi.cache_wf
  busy_clear h := nomatch h
  err_code h := nomatch h
  code_le := Nat.zero_le 8
  code_outLen _ := rfl
  code_info _ := rfl
  box_perm h := nomatch h

/-- An accepted START clears the completion fields (40_control.md R100). -/
theorem State.Inv.acceptStart (hi : s.Inv) : s.acceptStart.Inv where
  mem_wf := hi.mem_wf
  cache_wf := hi.cache_wf
  busy_clear _ := ⟨rfl, rfl, rfl, rfl, rfl⟩
  err_code h := nomatch h
  code_le := Nat.zero_le 8
  code_outLen _ := rfl
  code_info _ := rfl
  box_perm := hi.box_perm

/-- Clearing flags of an idle engine keeps the invariant. -/
theorem State.Inv.acknowledge (hi : s.Inv) (idle : s.busy = false) {d e : Bool} (he : e = true → s.err = true) (r : HostAnswer) :
    { s with done := d, err := e, answer := r }.Inv :=
  { hi with
    busy_clear := fun hb => absurd (idle.symm.trans hb) Bool.false_ne_true
    err_code := fun h => hi.err_code (he h) }

theorem State.Inv.operandsOnly (hi : s.Inv) (h : OperandsOnly s t) : t.Inv := by
  rw [h]
  exact { hi with }

theorem State.Inv.memoryOnly (hi : s.Inv) (h : MemoryOnly s t) : t.Inv := by
  obtain ⟨e, w⟩ := h
  obtain ⟨hm, hc⟩ := w hi.mem_wf hi.cache_wf
  rw [e]
  exact { hi with mem_wf := hm, cache_wf := hc }

/-- Every access of the host keeps the invariant. -/
theorem HostEffect.keepsInv {op : HostOp} (h : HostEffect op s t) (hi : s.Inv) : t.Inv := by
  cases h with
  | bookkeeping h => rw [h]; exact hi.bookkeeping _ _
  | reset _ h => rw [h]; exact hi.popHost.resetEngine.bookkeeping _ _
  | irqEnable h => rw [h]; exact hi.popHost.irqEnable _ _
  | start h => rw [h]; exact hi.popHost.acceptStart.irqEnable _ _
  | acknowledge idle herr h => rw [h]; exact hi.popHost.acknowledge idle herr _
  | operands _ _ h => exact hi.popHost.operandsOnly h
  | memory h => exact hi.popHost.memoryOnly h

/-! ### What the engine does keeps the invariant -/

/-- An error completion records a code with OUT_LEN 0 (60_exceptions.md R202). -/
theorem State.Inv.raise (hi : s.Inv) (e : CmdError) : (s.raise e).Inv where
  mem_wf := hi.mem_wf
  cache_wf := hi.cache_wf
  busy_clear h := nomatch h
  err_code _ := e.code_ne_zero
  code_le := e.code_le
  code_outLen _ := rfl
  code_info h := absurd h e.code_ne_zero
  box_perm := hi.box_perm

/-- A successful completion clears the error fields (40_control.md R107). -/
theorem State.Inv.complete (hi : s.Inv) (n : Nat) : (s.complete n).Inv where
  mem_wf := hi.mem_wf
  cache_wf := hi.cache_wf
  busy_clear h := nomatch h
  err_code h := nomatch h
  code_le := Nat.zero_le 8
  code_outLen h := absurd rfl h
  code_info _ := rfl
  box_perm := hi.box_perm

theorem State.Inv.dmaWrite (hi : s.Inv) {d : Nat} {bs : List Byte} (h : d + bs.length ≤ addressSpace ∨ bs = []) :
    (s.dmaWrite d bs).Inv := by
  rw [dmaWrite_eq]
  exact { hi with mem_wf := dmaWrite_mem_wf hi.mem_wf h, cache_wf := dmaWrite_cache_wf hi.cache_wf h }

/-- A command's own effect leaves a valid key box only where KEYBOX_BUILD made it or where it was. -/
theorem State.Inv.effectOf (hi : s.Inv) (i : Instr) (input : List Byte) : (effectOf i s input).Inv := by
  cases i with
  | keyboxBuild => exact { hi with box_perm := fun _ => buildKeyBox_isPermutation input }
  | streamDecipher => exact { hi with }
  | nop | ecbDecryptCore | ecbDecryptMeta | unpad | metaUnmask | metaDecrypt | unwrapKey => exact hi

/-- Every command keeps the invariant. -/
theorem exec_keepsInv {i : Instr} (hi : s.Inv) (h : exec i s = .next t) : t.Inv := by
  rcases exec_cases h with ⟨e, rfl⟩ | ⟨out, hl, hfit, -, rfl⟩
  · exact hi.raise e
  · exact ((hi.effectOf i _).dmaWrite (hfit.imp_left (by omega))).complete _

/-- Settles O54: the bookkeeping, every access of the host and every command keep the invariant. -/
theorem stepKeepsInvariant : Obligations.StepKeepsInvariant := by
  intro s t hi h
  rcases step_effect h with rfl | ⟨op, -, he⟩ | ⟨-, ⟨e, rfl⟩ | ⟨i, -, he⟩⟩
  · exact hi.tick
  · exact he.keepsInv hi.tick
  · exact hi.tick.raise e
  · exact exec_keepsInv hi.tick he

end Sys2Proof.Machine
end

section
/-! SUPPORT. Who changes the key box, KB_VALID and STREAM_POS (O57, O58). -/

namespace Sys2Proof.Machine

variable {s t : State} {op : HostOp} {i : Instr}

/-- A resetting access is the CTRL write with SRST or the reset input, as the statements write it. -/
theorem hostDoes_of_resets (h : s.hostDoes op) (hr : op.resets) :
    (∃ v : Word, s.hostDoes (.regWrite 0x004 .word v) ∧ v.getLsbD 1 = true) ∨ s.hostDoes .powerOnReset := by
  rcases hr with ⟨v, rfl, hv⟩ | rfl
  · exact .inl ⟨v, h, hv⟩
  · exact .inr h

/-! ### The key box and KB_VALID -/

/-- Of the host's accesses only a reset touches the key box and its validity (10_state.md R24, R30). -/
theorem HostEffect.keybox_cases (h : HostEffect op s t) :
    (t.kbValid = s.kbValid ∧ t.keybox = s.keybox) ∨ (op.resets ∧ t.kbValid = false) := by
  cases h with
  | reset hop h => exact .inr ⟨hop, (congrArg State.kbValid h :)⟩
  | bookkeeping h | irqEnable h | start h | acknowledge _ _ h | operands _ _ h =>
    exact .inl ⟨(congrArg State.kbValid h :), (congrArg State.keybox h :)⟩
  | memory h => exact .inl ⟨(congrArg State.kbValid h.1 :), (congrArg State.keybox h.1 :)⟩

/-- Only KEYBOX_BUILD has an effect on the key box and its validity. -/
theorem effectOf_keybox (hi : i ≠ .keyboxBuild) (s : State) (input : List Byte) :
    (effectOf i s input).kbValid = s.kbValid ∧ (effectOf i s input).keybox = s.keybox := by
  cases i with
  | keyboxBuild => exact absurd rfl hi
  | nop | ecbDecryptCore | ecbDecryptMeta | unpad | metaUnmask | metaDecrypt | unwrapKey | streamDecipher => exact ⟨rfl, rfl⟩

/-- Of the commands only a successful KEYBOX_BUILD touches the key box and its validity (42_keybox.md R152). -/
theorem exec_keybox_cases (h : exec i s = .next t) :
    (t.kbValid = s.kbValid ∧ t.keybox = s.keybox) ∨ (i = .keyboxBuild ∧ t.err = false ∧ t.kbValid = true) := by
  rcases exec_cases h with ⟨e, rfl⟩ | ⟨out, -, -, -, rfl⟩
  · exact .inl ⟨rfl, rfl⟩
  · by_cases hi : i = .keyboxBuild
    · subst hi
      exact .inr ⟨rfl, rfl, by simp [effectOf, effectKeyboxBuild]⟩
    · simpa using Or.inl (effectOf_keybox hi s s.input)

/-- Settles O57: neither the bookkeeping nor an error touches the key box; an access does by a reset, a command by KEYBOX_BUILD. -/
theorem keyBoxChangesOnlyByBuildOrReset : Obligations.KeyBoxChangesOnlyByBuildOrReset := by
  intro s t h hne
  have changed : ¬ (t.kbValid = s.kbValid ∧ t.keybox = s.keybox) := fun ⟨hv, hk⟩ => hne.elim (· hv) (· hk)
  rcases step_effect h with rfl | ⟨op, hop, he⟩ | ⟨hm, ⟨e, rfl⟩ | ⟨i, hd, he⟩⟩
  · exact absurd ⟨rfl, rfl⟩ changed
  · obtain ⟨hr, hv⟩ := he.keybox_cases.resolve_left changed
    exact .inr ⟨hostDoes_of_resets hop hr, hv⟩
  · exact absurd ⟨rfl, rfl⟩ changed
  · obtain ⟨rfl, herr, hv⟩ := (exec_keybox_cases he).resolve_left changed
    exact .inl ⟨hm, hd, herr, hv⟩

/-! ### STREAM_POS -/

/-- Of the host's accesses a reset and a write of STREAM_POS to an idle engine touch it (10_state.md R29). -/
theorem HostEffect.streamPos_cases (h : HostEffect op s t) :
    t.streamPos = s.streamPos ∨ (s.busy = false ∧ op = .regWrite 0x020 .word t.streamPos) ∨ (op.resets ∧ t.streamPos = 1) := by
  cases h with
  | reset hop h => exact .inr (.inr ⟨hop, (congrArg State.streamPos h :)⟩)
  | operands idle hpos h => exact hpos.imp_right fun hop => .inl ⟨idle, hop⟩
  | bookkeeping h | irqEnable h | start h | acknowledge _ _ h => exact .inl (congrArg State.streamPos h :)
  | memory h => exact .inl (congrArg State.streamPos h.1 :)

/-- What each command's own effect leaves in STREAM_POS (42_keybox.md R152, 45_stream_decipher.md R181). -/
theorem effectOf_streamPos (i : Instr) (s : State) :
    (effectOf i s s.input).streamPos = s.streamPos ∨ (i = .keyboxBuild ∧ (effectOf i s s.input).streamPos = 1) ∨
      (i = .streamDecipher ∧ (effectOf i s s.input).streamPos = s.streamPos + s.len) := by
  cases i with
  | keyboxBuild => exact .inr (.inl ⟨rfl, rfl⟩)
  | streamDecipher => exact .inr (.inr ⟨rfl, by simp [effectOf, effectStreamDecipher]⟩)
  | nop | ecbDecryptCore | ecbDecryptMeta | unpad | metaUnmask | metaDecrypt | unwrapKey => exact .inl rfl

/-- Of the commands a successful KEYBOX_BUILD and a successful STREAM_DECIPHER touch STREAM_POS (45_stream_decipher.md R184). -/
theorem exec_streamPos_cases (h : exec i s = .next t) :
    t.streamPos = s.streamPos ∨ (t.err = false ∧ ((i = .keyboxBuild ∧ t.streamPos = 1) ∨
      (i = .streamDecipher ∧ t.streamPos = s.streamPos + s.len))) := by
  rcases exec_cases h with ⟨e, rfl⟩ | ⟨out, -, -, -, rfl⟩
  · exact .inl rfl
  · simpa using effectOf_streamPos i s

/-- Settles O58: the writers of STREAM_POS among the accesses of the host and among the commands. -/
theorem streamPosChangesOnlyByItsWriters : Obligations.StreamPosChangesOnlyByItsWriters := by
  intro s t h changed
  rcases step_effect h with rfl | ⟨op, hop, he⟩ | ⟨hm, ⟨e, rfl⟩ | ⟨i, hd, he⟩⟩
  · exact absurd rfl changed
  · rcases he.streamPos_cases.resolve_left changed with ⟨idle, rfl⟩ | ⟨hr, hp⟩
    · exact .inr (.inl ⟨idle, hop⟩)
    · exact .inr (.inr ⟨hostDoes_of_resets hop hr, hp⟩)
  · exact absurd rfl changed
  · obtain ⟨herr, hw⟩ := (exec_streamPos_cases he).resolve_left changed
    refine .inl ⟨hm, herr, hw.imp ?_ ?_⟩
    · rintro ⟨rfl, hp⟩; exact ⟨hd, hp⟩
    · rintro ⟨rfl, hp⟩; exact ⟨hd, hp⟩

end Sys2Proof.Machine
end

section
/-! SUPPORT. While KB_VALID is 0 the content of KEYBOX RAM is not observable (O59): every operation of a step commutes with a change
of the key box. -/

namespace Sys2Proof.Machine

/-- The state with another key box. -/
def State.withBox (s : State) (box : KeyBox) : State := { s with keybox := box }

/-- Two outcomes are alike but for the key box, and for it too once KB_VALID is 1. -/
inductive AgreeButBox : Host.Outcome State Fault Refusal → Host.Outcome State Fault Refusal → Prop
  | next (t : State) (box : KeyBox) (h : t.kbValid = true → box = t.keybox) : AgreeButBox (.next t) (.next (t.withBox box))
  | fault (f : Fault) : AgreeButBox (.fault f) (.fault f)
  | refused (r : Refusal) : AgreeButBox (.refused r) (.refused r)

variable {s : State}

/-- Next states in which the key box is not valid agree when they differ in it only. -/
theorem AgreeButBox.of_invalid {t t' : State} (hv : t.kbValid = false) (h : ∃ box, t' = t.withBox box) :
    AgreeButBox (.next t) (.next t') := by
  obtain ⟨box, rfl⟩ := h
  exact .next t box fun ht => absurd (hv.symm.trans ht) Bool.false_ne_true

theorem AgreeButBox.refl (o : Host.Outcome State Fault Refusal) : AgreeButBox o o := by
  cases o with
  | next t => exact .next t t.keybox fun _ => rfl
  | fault f => exact .fault f
  | refused r => exact .refused r

/-! ### Memory -/

theorem setMark_withBox (s : State) (box : KeyBox) (a : Nat) (k : CacheMark) :
    (s.withBox box).setMark a k = (s.setMark a k).withBox box := by
  unfold State.setMark
  cases hc : s.chip.dmaCoherent <;> simp [State.withBox, hc]

theorem dmaWriteByte_withBox (s : State) (box : KeyBox) (a : Nat) (b : Byte) :
    (s.withBox box).dmaWriteByte a b = (s.dmaWriteByte a b).withBox box := by
  unfold State.dmaWriteByte
  rw [show (s.withBox box).mark a = s.mark a from rfl, setMark_withBox]
  rfl

theorem dmaWrite_withBox (s : State) (box : KeyBox) (a : Nat) (bs : List Byte) :
    (s.withBox box).dmaWrite a bs = (s.dmaWrite a bs).withBox box := by
  induction bs generalizing s a with
  | nil => rfl
  | cons b rest ih => rw [State.dmaWrite, dmaWriteByte_withBox, ih, State.dmaWrite]

theorem cleanByte_withBox (s : State) (box : KeyBox) (a : Nat) : (s.withBox box).cleanByte a = (s.cleanByte a).withBox box := by
  unfold State.cleanByte
  rw [show (s.withBox box).mark a = s.mark a from rfl, setMark_withBox]
  rfl

theorem invalidateByte_withBox (s : State) (box : KeyBox) (a : Nat) :
    (s.withBox box).invalidateByte a = (s.invalidateByte a).withBox box := by
  unfold State.invalidateByte
  rw [show (s.withBox box).mark a = s.mark a from rfl, setMark_withBox]
  rfl

theorem foldl_withBox {op : State → Nat → State} (hop : ∀ s box a, op (s.withBox box) a = (op s a).withBox box) (s : State)
    (box : KeyBox) (l : List Nat) : l.foldl op (s.withBox box) = (l.foldl op s).withBox box := by
  induction l generalizing s with
  | nil => rfl
  | cons a rest ih => rw [List.foldl_cons, hop, ih, List.foldl_cons]

/-! ### Registers -/

/-- A reset overwrites KEYBOX RAM with free values (70_reset_and_hazards.md R241). -/
theorem resetEngine_withBox (s : State) (box : KeyBox) : (s.withBox box).resetEngine = s.resetEngine := by
  unfold State.resetEngine State.abort
  rw [show (s.withBox box).abortWindow.map (s.withBox box).freeAborted = s.abortWindow.map s.freeAborted from rfl, dmaWrite_withBox]
  rfl

theorem readRegister_withBox (hv : s.kbValid = false) (box : KeyBox) (offset : BitVec 12) :
    (s.withBox box).readRegister offset = s.readRegister offset := by
  unfold State.readRegister
  rw [keyboxWin_of_hidden (.inl hv), keyboxWin_of_hidden (s := s.withBox box) (.inl hv)]
  rfl

theorem registerAnswer_withBox (hv : s.kbValid = false) (box : KeyBox) (offset : BitVec 12) (size : AccessSize) :
    (s.withBox box).registerAnswer offset size = s.registerAnswer offset size := by
  unfold State.registerAnswer
  rw [readRegister_withBox hv]

theorem pollMet_withBox (hv : s.kbValid = false) (box : KeyBox) (offset : BitVec 12) (mask value : Word) :
    (s.withBox box).pollMet offset mask value = s.pollMet offset mask value := by
  unfold State.pollMet
  rw [readRegister_withBox hv]

theorem whenIdle_withBox {u u' : State} {box : KeyBox} (hu : u' = u.withBox box) :
    (s.withBox box).whenIdle u' = (s.whenIdle u).withBox box := by
  unfold State.whenIdle
  rw [hu, show (s.withBox box).busy = s.busy from rfl]
  split <;> rfl

theorem acknowledge_withBox (s : State) (box : KeyBox) (v : Word) :
    (s.withBox box).acknowledge v = (s.acknowledge v).withBox box := by
  unfold State.acknowledge
  rw [show (s.withBox box).busy = s.busy from rfl]
  split <;> rfl

theorem writeCtrl_withBox (s : State) (box : KeyBox) (v : Word) :
    ∃ box', (s.withBox box).writeCtrl v = (s.writeCtrl v).withBox box' := by
  unfold State.writeCtrl
  rw [show (s.withBox box).busy = s.busy from rfl]
  split
  · exact ⟨_, resetEngine_withBox s box⟩
  · split
    · exact ⟨box, rfl⟩
    · exact ⟨box, rfl⟩

theorem writeRegister_withBox (s : State) (box : KeyBox) (offset : BitVec 12) (v : Word) :
    ∃ box', (s.withBox box).writeRegister offset v = (s.writeRegister offset v).withBox box' := by
  unfold State.writeRegister
  split
  · exact writeCtrl_withBox s box v
  split
  · exact ⟨box, acknowledge_withBox s box v⟩
  iterate 5
    split
    · exact ⟨box, whenIdle_withBox rfl⟩
  exact ⟨box, rfl⟩

theorem hostRegWrite_withBox (s : State) (box : KeyBox) (offset : BitVec 12) (size : AccessSize) (v : Word) :
    ∃ box', (s.withBox box).hostRegWrite offset size v = (s.hostRegWrite offset size v).withBox box' := by
  unfold State.hostRegWrite
  split
  · obtain ⟨box', h⟩ := writeRegister_withBox s box offset v
    exact ⟨box', by rw [h]; rfl⟩
  · exact ⟨box, rfl⟩

/-! ### The host's turn -/

/-- No access of the host makes the key box valid. -/
theorem HostEffect.kbValid_false {op : HostOp} {t : State} (h : HostEffect op s t) (hv : s.kbValid = false) : t.kbValid = false := by
  rcases h.keybox_cases with ⟨he, -⟩ | ⟨-, he⟩
  · exact he.trans hv
  · exact he

theorem hostMemRead_agrees (hv : s.kbValid = false) (box : KeyBox) (a : Nat) :
    AgreeButBox (s.hostMemRead a) ((s.withBox box).hostMemRead a) := by
  unfold State.hostMemRead
  rw [show (s.withBox box).runningOutput a = s.runningOutput a from rfl, show (s.withBox box).chip = s.chip from rfl]
  split
  · exact .fault _
  split
  · exact .of_invalid hv ⟨box, rfl⟩
  split
  · exact .refused _
  · exact .of_invalid hv ⟨box, rfl⟩

theorem hostMemWrite_agrees (hv : s.kbValid = false) (box : KeyBox) (a : Nat) (b : Byte) :
    AgreeButBox (s.hostMemWrite a b) ((s.withBox box).hostMemWrite a b) := by
  unfold State.hostMemWrite
  rw [show ((s.withBox box).runningInput a || (s.withBox box).runningOutput a) = (s.runningInput a || s.runningOutput a) from rfl,
    show (s.withBox box).chip = s.chip from rfl, setMark_withBox]
  split
  · exact .fault _
  split
  · exact .of_invalid hv ⟨box, rfl⟩
  split
  · exact .refused _
  · exact .of_invalid (by simpa using hv) ⟨box, rfl⟩

theorem maintain_agrees {op : State → Nat → State} (hmem : ∀ s a, MemoryOnly s (op s a))
    (hop : ∀ s box a, op (s.withBox box) a = (op s a).withBox box) (hv : s.kbValid = false) (box : KeyBox) (a n : Nat) :
    AgreeButBox (s.maintain op a n) ((s.withBox box).maintain op a n) := by
  have valid : ((List.range' a n).foldl op s).kbValid = s.kbValid :=
    foldl_keeps (P := fun u => u.kbValid = s.kbValid) (fun u x hu => (congrArg State.kbValid (hmem u x).1 :).trans hu) rfl _
  unfold State.maintain
  rw [foldl_withBox hop]
  split
  · rw [if_pos ‹_›]; exact .fault _
  · rw [if_neg ‹_›]; exact .of_invalid (valid.trans hv) ⟨box, rfl⟩

/-- No access of the host sees the content of a key box that is not valid. -/
theorem hostAccess_agrees (op : HostOp) (hv : s.kbValid = false) (box : KeyBox) :
    AgreeButBox (hostAccess op s) (hostAccess op (s.withBox box)) := by
  cases op with
  | regRead offset size =>
    refine .of_invalid hv ⟨box, ?_⟩
    rw [registerAnswer_withBox hv]
    rfl
  | regWrite offset size v =>
    exact .of_invalid ((hostEffect_regWrite s offset size v).kbValid_false hv) (hostRegWrite_withBox s.popHost box offset size v)
  | poll offset mask value =>
    simp only [hostAccess]
    rw [pollMet_withBox hv, registerAnswer_withBox hv]
    split
    · exact .of_invalid hv ⟨box, rfl⟩
    · exact .of_invalid hv ⟨box, rfl⟩
  | waitIrq =>
    simp only [hostAccess]
    rw [show (s.withBox box).irq = s.irq from rfl]
    split
    · exact .of_invalid hv ⟨box, rfl⟩
    · exact .of_invalid hv ⟨box, rfl⟩
  | memRead addr => exact hostMemRead_agrees (s := s.popHost) hv box addr.toNat
  | memWrite addr b => exact hostMemWrite_agrees (s := s.popHost) hv box addr.toNat b
  | cacheClean addr n => exact maintain_agrees (s := s.popHost) cleanByte_memoryOnly cleanByte_withBox hv box addr.toNat n
  | cacheInvalidate addr n =>
    exact maintain_agrees (s := s.popHost) invalidateByte_memoryOnly invalidateByte_withBox hv box addr.toNat n
  | software => exact .of_invalid hv ⟨box, rfl⟩
  | powerOnReset => exact .of_invalid rfl ⟨_, resetEngine_withBox s.popHost box⟩

theorem hostStep_agrees (hv : s.kbValid = false) (box : KeyBox) : AgreeButBox (hostStep s) (hostStep (s.withBox box)) := by
  unfold hostStep
  rw [show (s.withBox box).host = s.host from rfl]
  split
  · exact .of_invalid hv ⟨box, rfl⟩
  · exact hostAccess_agrees _ hv box

/-! ### The engine's turn -/

/-- Only STREAM_DECIPHER's body reads the key box. -/
theorem bodyOf_withBox {i : Instr} (hi : i ≠ .streamDecipher) (s : State) (box : KeyBox) (input : List Byte) :
    bodyOf i (s.withBox box) input = bodyOf i s input := by
  cases i with
  | streamDecipher => exact absurd rfl hi
  | nop | ecbDecryptCore | ecbDecryptMeta | unpad | keyboxBuild | metaUnmask | metaDecrypt | unwrapKey => rfl

/-- A command's own effect keeps the difference, but for KEYBOX_BUILD, which overwrites the whole key box (42_keybox.md R152). -/
theorem effectOf_withBox (i : Instr) (hv : s.kbValid = false) (box : KeyBox) (input : List Byte) :
    ∃ box', effectOf i (s.withBox box) input = (effectOf i s input).withBox box' ∧
      ((effectOf i s input).kbValid = true → box' = (effectOf i s input).keybox) := by
  by_cases hi : i = .keyboxBuild
  · subst hi
    exact ⟨buildKeyBox input, rfl, fun _ => rfl⟩
  · refine ⟨box, ?_, fun h => absurd (((effectOf_keybox hi s input).1.trans hv).symm.trans h) Bool.false_ne_true⟩
    cases i with
    | keyboxBuild => exact absurd rfl hi
    | nop | ecbDecryptCore | ecbDecryptMeta | unpad | metaUnmask | metaDecrypt | unwrapKey | streamDecipher => rfl

/-- No command's outcome depends on a key box that is not valid: STREAM_DECIPHER is refused by `Precheck` (60_exceptions.md R201). -/
theorem exec_agrees (i : Instr) (hv : s.kbValid = false) (box : KeyBox) : AgreeButBox (exec i s) (exec i (s.withBox box)) := by
  by_cases hn : i = .nop
  · subst hn
    exact .of_invalid hv ⟨box, rfl⟩
  rw [exec_eq_runCommand hn, exec_eq_runCommand hn]
  have samePrecheck : precheck i (s.withBox box) = precheck i s := rfl
  rcases hp : precheck i s with _ | e
  · have hi : i ≠ .streamDecipher := by
      rintro rfl
      simp [precheck, hv] at hp
    by_cases hw : windowsPlain i s = true
    · rcases hb : bodyOf i s s.input with e | out
      · rw [runCommand_body_error hp hw hb, runCommand_body_error (samePrecheck.trans hp) hw ((bodyOf_withBox hi s box _).trans hb)]
        exact .of_invalid hv ⟨box, rfl⟩
      · rw [runCommand_ok hp hw hb, runCommand_ok (samePrecheck.trans hp) hw ((bodyOf_withBox hi s box _).trans hb)]
        obtain ⟨box', he, hvalid⟩ := effectOf_withBox i hv box s.input
        rw [show (s.withBox box).input = s.input from rfl, he, dmaWrite_withBox]
        exact .next _ box' (by simpa using hvalid)
    · simp only [runCommand, samePrecheck, hp, show windowsPlain i (s.withBox box) = windowsPlain i s from rfl, if_neg hw]
      exact .fault _
  · rw [runCommand_precheck_error hp, runCommand_precheck_error (samePrecheck.trans hp)]
    exact .of_invalid hv ⟨box, rfl⟩

theorem engineStep_agrees (hv : s.kbValid = false) (box : KeyBox) : AgreeButBox (engineStep s) (engineStep (s.withBox box)) := by
  unfold engineStep
  rw [show (s.withBox box).busy = s.busy from rfl, show (s.withBox box).cmd = s.cmd from rfl]
  split
  · split
    · exact exec_agrees _ hv box
    · exact .of_invalid hv ⟨box, rfl⟩
  · exact .of_invalid hv ⟨box, rfl⟩

theorem step_agrees (hv : s.kbValid = false) (box : KeyBox) : AgreeButBox (step s) (step (s.withBox box)) := by
  unfold step machineStep
  rw [show (s.withBox box).mover = s.mover from rfl]
  split
  · exact hostStep_agrees (s := s.tick) hv box
  · exact engineStep_agrees (s := s.tick) hv box

/-- Settles O59: the two steps agree, and each kind of outcome of the first fixes that of the second. -/
theorem unbuiltKeyBoxIsUnobservable : Obligations.UnbuiltKeyBoxIsUnobservable := by
  intro s box hv
  have agree : AgreeButBox (step s) (step { s with keybox := box }) := step_agrees hv box
  refine ⟨fun t ht => ?_, fun f hf => ?_, fun r hr => ?_⟩
  · rw [ht] at agree
    generalize step { s with keybox := box } = o at agree
    cases agree with
    | next _ box' h => exact ⟨box', rfl, h⟩
  · rw [hf] at agree
    generalize step { s with keybox := box } = o at agree
    cases agree with
    | fault _ => rfl
  · rw [hr] at agree
    generalize step { s with keybox := box } = o at agree
    cases agree with
    | refused _ => rfl

end Sys2Proof.Machine
end

section
/-! SUPPORT. What a command leaves unchanged (O30), and when it stops (O27). -/

namespace Sys2Proof.Machine

variable {s t : State} {i : Instr}

/-! ### The frame of every command -/

/-- A command completes, and of the rest of the state it may change the key box, its validity, STREAM_POS, memory and the cache marks
only (40_control.md R107, 60_exceptions.md R202). -/
theorem exec_eq (h : exec i s = .next t) :
    t = { s with busy := false, done := true, err := t.err, outLen := t.outLen, errCode := t.errCode, errInfo := t.errInfo,
                 kbValid := t.kbValid, streamPos := t.streamPos, keybox := t.keybox, mem := t.mem, cache := t.cache } := by
  rcases exec_cases h with ⟨e, rfl⟩ | ⟨out, -, -, -, rfl⟩
  · rfl
  · rw [dmaWrite_eq, effectOf_eq]
    rfl

/-- The output window is no longer than LEN. -/
theorem outSize_le_len (i : Instr) (s : State) : outSize i s ≤ s.len.toNat := by
  cases i with
  | nop | keyboxBuild => exact Nat.zero_le _
  | metaUnmask => exact Nat.sub_le _ _
  | ecbDecryptCore | ecbDecryptMeta | unpad | metaDecrypt | unwrapKey | streamDecipher => exact Nat.le_refl _

/-- OUT_LEN holds the length of an output that fits the output window whole. -/
theorem toNat_ofNat_length {out : List Byte} (h : out.length ≤ outSize i s) : (BitVec.ofNat 32 out.length).toNat = out.length :=
  Nat.mod_eq_of_lt ((h.trans (outSize_le_len i s)).trans_lt s.len.isLt)

theorem MarksWritten.nothing (s : State) (d : Nat) : MarksWritten s s d 0 :=
  ⟨fun _ => rfl, fun a => by rw [if_neg (by omega)]⟩

theorem dmaWrite_marksWritten (s : State) (d : Nat) (bs : List Byte) : MarksWritten s (s.dmaWrite d bs) d bs.length :=
  ⟨fun hc => dmaWrite_cache_coherent hc d bs, mark_dmaWrite s d bs⟩

/-- Memory and the marks change as one block write of OUT_LEN bytes at DST changes them: none after an error (60_exceptions.md R203). -/
theorem exec_memory (h : exec i s = .next t) :
    (∀ a, (a < s.dst.toNat ∨ s.dst.toNat + t.outLen.toNat ≤ a) → t.mem.read a = s.mem.read a) ∧
      MarksWritten s t s.dst.toNat t.outLen.toNat ∧ t.outLen.toNat ≤ outSize i s := by
  rcases exec_cases h with ⟨e, rfl⟩ | ⟨out, hl, -, -, rfl⟩
  · exact ⟨fun _ _ => rfl, .nothing s _, Nat.zero_le _⟩
  · have hmarks := dmaWrite_marksWritten (effectOf i s s.input) s.dst.toNat out
    rw [complete_outLen, toNat_ofNat_length hl]
    rw [effectOf_eq] at hmarks ⊢
    exact ⟨fun _ ha => dmaWrite_read_outside _ _ out ha, hmarks, hl⟩

/-- NOP and KEYBOX_BUILD have no output (40_control.md R108, 42_keybox.md R152). -/
theorem exec_memory_of_no_output (hi : i = .nop ∨ i = .keyboxBuild) (h : exec i s = .next t) : t.mem = s.mem ∧ t.cache = s.cache := by
  rcases exec_cases h with ⟨e, rfl⟩ | ⟨out, hl, -, -, rfl⟩
  · exact ⟨rfl, rfl⟩
  · have noWindow : outSize i s = 0 := by rcases hi with rfl | rfl <;> rfl
    obtain rfl : out = [] := List.length_eq_zero_iff.1 (by omega)
    rw [effectOf_eq]
    exact ⟨rfl, rfl⟩

/-- Settles O30: the fields that `exec_eq` keeps, the writers of the key box and of STREAM_POS, and the one block write of the output. -/
theorem commandFrame : Obligations.CommandFrame := by
  intro i s t h
  obtain ⟨hread, hmarks, hlen⟩ := exec_memory h
  refine ⟨?_, ?_, fun hi => ?_, fun hk hd => ?_, fun hi => exec_memory_of_no_output hi h, hread, hmarks, hlen⟩
  · rw [exec_eq h]
    exact ⟨rfl, rfl, rfl, rfl, rfl, rfl, rfl, rfl, rfl, rfl⟩
  · rw [exec_eq h]
    exact ⟨rfl, rfl⟩
  · rcases exec_keybox_cases h with ⟨hv, hk⟩ | ⟨hb, -⟩
    · exact ⟨hk, hv⟩
    · exact absurd hb hi
  · rcases exec_streamPos_cases h with hp | ⟨-, ⟨hb, -⟩ | ⟨hs, -⟩⟩
    · exact hp
    · exact absurd hb hk
    · exact absurd hs hd

/-! ### When a command stops -/

theorem wantsBlocks_iff (i : Instr) :
    wantsBlocks i = true ↔ i = .ecbDecryptCore ∨ i = .ecbDecryptMeta ∨ i = .metaDecrypt ∨ i = .unwrapKey := by
  cases i <;> simp [wantsBlocks]

/-- `Precheck` finds nothing exactly when the operands and the windows pass (60_exceptions.md R201). -/
theorem precheck_none_iff (hi : i ≠ .nop) : precheck i s = none ↔ ¬ OperandsRefused i s ∧ windowCheck i s = none := by
  unfold precheck OperandsRefused
  rw [if_neg hi, ← wantsBlocks_iff]
  split
  · simp_all
  split
  · simp_all
  split
  · simp_all
  · simp_all

/-- The window checks pass exactly when the windows are in range, in place or disjoint, and admitted (40_control.md R104). -/
theorem windowCheck_none_iff_admitted :
    windowCheck i s = none ↔ s.InRange (inSize i s) (outSize i s) ∧ ¬ s.PartialOverlap (inSize i s) (outSize i s) ∧
      (∀ k, k < inSize i s → s.chip.admits .read (s.src.toNat + k) = true) ∧
      ∀ k, k < outSize i s → s.chip.admits .write (s.dst.toNat + k) = true := by
  rw [windowCheck_none_iff, inRange_iff, ← Bool.not_eq_true, overlaps_iff, firstBadRead, firstBad_none_iff, firstBadWrite,
    firstBad_none_iff]
  rfl

theorem windowsPlain_false_iff :
    windowsPlain i s = false ↔ (∃ k, k < inSize i s ∧ s.chip.plain (s.src.toNat + k) = false) ∨
      ∃ k, k < outSize i s ∧ s.chip.plain (s.dst.toNat + k) = false := by
  rw [← Bool.not_eq_true, windowsPlain_iff, not_and_or]
  simp

/-- The one fault of the command frame: every check passed, and a window byte is no plain memory (assumption 10). -/
theorem runCommand_fault_iff {body : State → List Byte → Except CmdError (List Byte)} {effect : State → List Byte → State} {f : Fault} :
    runCommand i body effect s = .fault f ↔ f = .nonIdempotentWindow ∧ precheck i s = none ∧ windowsPlain i s = false := by
  unfold runCommand
  split
  · simp_all
  split
  · split
    · simp_all
    · simp_all
  · rename_i hp hw
    simp [hp, hw, eq_comm (a := f)]

theorem runCommand_not_refused {body : State → List Byte → Except CmdError (List Byte)} {effect : State → List Byte → State}
    (r : Refusal) : runCommand i body effect s ≠ .refused r := by
  unfold runCommand
  split
  · exact nofun
  split
  · split
    · exact nofun
    · exact nofun
  · exact nofun

/-- Settles O27: NOP answers a next state, and every other command runs in the frame, whose one fault this is. -/
theorem nonIdempotentWindowFaults : Obligations.NonIdempotentWindowFaults := by
  refine ⟨fun i s hi hargs hr hov hrd hwr hbad => ?_, fun i s f h => ?_, fun i s r => ?_⟩
  · rw [exec_eq_runCommand hi, runCommand_fault_iff, precheck_none_iff hi, windowCheck_none_iff_admitted, windowsPlain_false_iff]
    exact ⟨rfl, ⟨hargs, hr, hov, hrd, hwr⟩, hbad⟩
  · by_cases hi : i = .nop
    · subst hi
      cases h
    · rwa [exec_eq_runCommand hi, runCommand_fault_iff] at h
  · by_cases hi : i = .nop
    · subst hi
      exact nofun
    · rw [exec_eq_runCommand hi]
      exact runCommand_not_refused r

end Sys2Proof.Machine
end

section
/-! SUPPORT. The host's list of accesses is taken off one at a time and in order (O7; assumption 1). -/

namespace Sys2Proof.Machine

variable {s t : State}

/-! ### What an access does to the engine leaves the list -/

@[simp] theorem resetEngine_host (s : State) : s.resetEngine.host = s.host := by simp [State.resetEngine, State.abort]

theorem writeRegister_host (s : State) (o : BitVec 12) (v : Word) : (s.writeRegister o v).host = s.host := by
  rcases writeRegister_cases s o v with h | h | h | ⟨-, h⟩ <;> rw [h]
  · rcases writeCtrl_cases s v with ⟨-, h⟩ | ⟨-, -, -, h⟩ | ⟨-, -, h⟩ <;> simp [h]
  · rcases acknowledge_cases s v with ⟨-, h⟩ | ⟨-, h⟩ <;> rw [h]

theorem hostRegWrite_host (s : State) (o : BitVec 12) (size : AccessSize) (v : Word) : (s.hostRegWrite o size v).host = s.host := by
  unfold State.hostRegWrite
  split
  · exact writeRegister_host s o v
  · rfl

theorem MemoryOnly.host (h : MemoryOnly s t) : t.host = s.host := (congrArg State.host h.1 :)

/-! ### The turns -/

/-- A wait that is not met stays first in the list, and every other access is taken off it. -/
theorem hostAccess_host {op : HostOp} (h : hostAccess op s = .next t) : t.host = s.host ∨ t.host = s.host.tail := by
  cases op with
  | poll offset mask value =>
    simp only [hostAccess] at h
    split at h
    · cases h; exact .inr rfl
    · cases h; exact .inl rfl
  | waitIrq =>
    simp only [hostAccess] at h
    split at h
    · cases h; exact .inr rfl
    · cases h; exact .inl rfl
  | regRead offset size => cases h; exact .inr rfl
  | regWrite offset size v => cases h; exact .inr (hostRegWrite_host s.popHost offset size v)
  | memRead addr =>
    obtain ⟨-, r, rfl⟩ := hostMemRead_cases h
    exact .inr rfl
  | memWrite addr b => exact .inr (hostMemWrite_memoryOnly addr.isLt h).host
  | cacheClean addr n => exact .inr (maintain_memoryOnly cleanByte_memoryOnly h).host
  | cacheInvalidate addr n => exact .inr (maintain_memoryOnly invalidateByte_memoryOnly h).host
  | software => cases h; exact .inr rfl
  | powerOnReset => cases h; exact .inr (resetEngine_host s.popHost)

theorem hostStep_host (h : hostStep s = .next t) : t.host = s.host ∨ t.host = s.host.tail := by
  rcases hostStep_cases s with ⟨-, he⟩ | ⟨op, -, -, he⟩ <;> rw [he] at h
  · cases h; exact .inl rfl
  · exact hostAccess_host h

theorem engineStep_host (h : engineStep s = .next t) : t.host = s.host := by
  rcases engineStep_cases s with ⟨-, he⟩ | ⟨-, i, -, he⟩ | ⟨-, e, -, he⟩ <;> rw [he] at h
  · cases h; rfl
  · exact (congrArg State.host (exec_eq h) :)
  · cases h; rfl

/-- Settles O7: the host's turn takes off at most the first access, the engine's turn none. -/
theorem hostAccessesInOrder : Obligations.HostAccessesInOrder := by
  intro s t h
  rcases step_cases s with ⟨hm, he⟩ | ⟨hm, he⟩ <;> rw [he] at h <;> rw [hm]
  · exact ⟨fun _ => hostStep_host (s := s.tick) h, nofun⟩
  · exact ⟨nofun, fun _ => engineStep_host (s := s.tick) h⟩

end Sys2Proof.Machine
end

section
/-! SUPPORT. The host's accesses beside a running command: races (O49), cache maintenance (O51), and register accesses that the block
refuses (O40). -/

namespace Sys2Proof.Machine

variable {s : State}

/-! ### Races in data memory -/

/-- While BUSY the windows are those of the command in CMD (10_state.md R35). -/
theorem running_of_busy {i : Instr} (hb : s.busy = true) (hd : decode s.cmd = .ok i) : s.running = some i := by
  simp [State.running, hb, hd, Except.toOption]

theorem runningInput_iff {i : Instr} (h : s.running = some i) (a : Nat) :
    s.runningInput a = true ↔ s.src.toNat ≤ a ∧ a < s.src.toNat + inSize i s := by
  simp [State.runningInput, h, inInput]

theorem runningOutput_iff {i : Instr} (h : s.running = some i) (a : Nat) :
    s.runningOutput a = true ↔ s.dst.toNat ≤ a ∧ a < s.dst.toNat + outSize i s := by
  simp [State.runningOutput, h, inOutput]

theorem hostMemWrite_race {a : Nat} (h : s.runningInput a = true ∨ s.runningOutput a = true) (b : Byte) :
    s.hostMemWrite a b = .fault .hostRace := if_pos ((Bool.or_eq_true _ _).mpr h)

theorem hostMemRead_race {a : Nat} (h : s.runningOutput a = true) : s.hostMemRead a = .fault .hostRace := if_pos h

/-- Settles O49: the byte lies in a window of the running command, which the access tests first. -/
theorem hostRaceFaults : Obligations.HostRaceFaults := by
  intro s i a b hb hd
  have hr : s.running = some i := running_of_busy hb hd
  refine ⟨fun h ha => ?_, fun h ha => ?_⟩
  · rw [← runningInput_iff hr, ← runningOutput_iff hr] at ha
    rw [step_of_hostDoes h]
    exact hostMemWrite_race (s := s.tick.popHost) ha b
  · rw [← runningOutput_iff hr] at ha
    rw [step_of_hostDoes h]
    exact hostMemRead_race (s := s.tick.popHost) ha

/-! ### Cache maintenance -/

theorem maintenanceRaces_iff (s : State) (a n : Nat) :
    s.MaintenanceRaces a n ↔
      ((List.range' a n).any fun x => (s.runningInput x || s.runningOutput x) && s.mark x != .synced) = true := by
  simp only [State.MaintenanceRaces, List.any_eq_true, List.mem_range'_1, Bool.and_eq_true, Bool.or_eq_true, bne_iff_ne]
  constructor
  · rintro ⟨k, hk, h⟩
    exact ⟨a + k, by omega, h⟩
  · rintro ⟨x, hx, h⟩
    obtain ⟨k, rfl⟩ := Nat.exists_eq_add_of_le hx.1
    exact ⟨k, by omega, h⟩

theorem maintain_race (op : State → Nat → State) {a n : Nat} (h : s.MaintenanceRaces a n) : s.maintain op a n = .fault .hostRace :=
  if_pos ((maintenanceRaces_iff s a n).mp h)

theorem maintain_next (op : State → Nat → State) {a n : Nat} (h : ¬ s.MaintenanceRaces a n) :
    s.maintain op a n = .next { (List.range' a n).foldl op s with answer := .accepted } :=
  if_neg (mt (maintenanceRaces_iff s a n).mpr h)

/-- Maintenance of a range that does not race does to each of its bytes what `op` does to one: it turns the mark by `f`, and leaves
memory alone where the mark satisfies `P`. -/
theorem maintain_effect {op : State → Nat → State} {f : CacheMark → CacheMark} {P : CacheMark → Prop}
    (hop : ∀ s a x, (op s a).mark x = if x = a then f (s.mark x) else s.mark x)
    (hread : ∀ s a x, x ≠ a ∨ P (s.mark x) → (op s a).mem.read x = s.mem.read x) (hmem : ∀ s a, MemoryOnly s (op s a))
    {a n : Nat} (h : ¬ s.MaintenanceRaces a n) :
    ∃ t, s.maintain op a n = .next t ∧ t = { s with mem := t.mem, cache := t.cache, answer := .accepted } ∧
      (∀ x, t.mark x = if a ≤ x ∧ x < a + n then f (s.mark x) else s.mark x) ∧
      ∀ x, (x < a ∨ a + n ≤ x ∨ P (s.mark x)) → t.mem.read x = s.mem.read x :=
  ⟨_, maintain_next op h, (maintain_memoryOnly hmem (maintain_next op h)).1, foldl_mark hop s a n, fun _ => foldl_read hop hread s⟩

/-- Settles O51: cleaning and invalidating are the maintenance of each byte, which the race test precedes. -/
theorem cacheMaintenance : Obligations.CacheMaintenance := by
  intro s a n
  refine ⟨fun hr => ⟨fun h => ?_, fun h => ?_⟩, fun hr => ⟨fun h => ?_, fun h => ?_⟩⟩ <;> rw [step_of_hostDoes h]
  · exact maintain_race (s := s.tick.popHost) State.cleanByte hr
  · exact maintain_race (s := s.tick.popHost) State.invalidateByte hr
  · exact maintain_effect (s := s.tick.popHost) (P := (· ≠ .clashed)) mark_cleanByte (fun s _ _ => cleanByte_read s)
      cleanByte_memoryOnly hr
  · exact maintain_effect (s := s.tick.popHost) (f := fun _ => .synced) (P := (·.unflushed = false)) mark_invalidateByte
      (fun s _ _ => invalidateByte_read s) invalidateByte_memoryOnly hr

/-! ### Register accesses that are refused -/

theorem accessAccepted_false {o : BitVec 12} {z : AccessSize} (h : z ≠ .word ∨ o.toNat % 4 ≠ 0) : accessAccepted o z = false := by
  rcases h with h | h <;> simp [accessAccepted, h]

/-- Settles O40: the block refuses the access before it reaches a register, and an aligned read reaches one. -/
theorem onlyAlignedWordAccesses : Obligations.OnlyAlignedWordAccesses := by
  intro s o z v
  refine ⟨fun hz => ?_, ?_⟩
  · have refused : ¬ accessAccepted o z = true := by simp [accessAccepted_false hz]
    refine ⟨fun h => ?_, fun h => ?_⟩
    · rw [step_of_hostDoes h, hostAccess, State.registerAnswer, if_neg refused]
      rfl
    · rw [step_of_hostDoes h, hostAccess, State.hostRegWrite, if_neg refused]
      rfl
  · rintro rfl ho h
    exact ⟨_, step_regRead ho h⟩

end Sys2Proof.Machine
end

section
/-! SUPPORT. The command word as its three fields over numbers (30_encoding.md R70), and what the decoder answers on each word
(R72, R74, R75). -/

namespace Sys2Proof

/-! ### A word is its fields -/

@[simp] theorem fieldsOf_rsvd_toNat (w : Word) : (fieldsOf w).rsvd.toNat = w.toNat / 32 := by
  simp only [fieldsOf, BitVec.extractLsb'_toNat, Nat.shiftRight_eq_div_pow]
  omega

@[simp] theorem fieldsOf_keysel_toNat (w : Word) : (fieldsOf w).keysel.toNat = w.toNat / 16 % 2 := by
  simp [fieldsOf, Nat.shiftRight_eq_div_pow]

@[simp] theorem fieldsOf_op_toNat (w : Word) : (fieldsOf w).op.toNat = w.toNat % 16 := by
  simp [fieldsOf]

/-- The three fields stand beside each other: no bit of one is a bit of another. -/
theorem packFields_toNat (f : CommandFields) : (packFields f).toNat = f.rsvd.toNat * 32 + f.keysel.toNat * 16 + f.op.toNat := by
  calc (packFields f).toNat
      = f.rsvd.toNat <<< 5 ||| f.keysel.toNat <<< 4 ||| f.op.toNat := by
        simp (disch := omega) only [packFields, BitVec.toNat_or, BitVec.toNat_shiftLeft, BitVec.toNat_setWidth, Nat.mod_eq_of_lt]
    _ = (f.rsvd.toNat <<< 1 ||| f.keysel.toNat) <<< 4 ||| f.op.toNat := by
        rw [Nat.shiftLeft_or_distrib, ← Nat.shiftLeft_add]
    _ = (f.rsvd.toNat <<< 1 + f.keysel.toNat) <<< 4 + f.op.toNat := by
        rw [Nat.shiftLeft_add_eq_or_of_lt f.op.isLt, Nat.shiftLeft_add_eq_or_of_lt f.keysel.isLt]
    _ = f.rsvd.toNat * 32 + f.keysel.toNat * 16 + f.op.toNat := by omega

theorem packFields_fieldsOf (w : Word) : packFields (fieldsOf w) = w := by
  apply BitVec.eq_of_toNat_eq
  rw [packFields_toNat, fieldsOf_rsvd_toNat, fieldsOf_keysel_toNat, fieldsOf_op_toNat]
  omega

theorem CommandFields.ext_toNat {f g : CommandFields} (hr : f.rsvd.toNat = g.rsvd.toNat) (hk : f.keysel.toNat = g.keysel.toNat)
    (ho : f.op.toNat = g.op.toNat) : f = g := by
  cases f
  cases g
  exact congr (congr (congrArg _ (BitVec.eq_of_toNat_eq hr)) (BitVec.eq_of_toNat_eq hk)) (BitVec.eq_of_toNat_eq ho)

theorem fieldsOf_packFields (f : CommandFields) : fieldsOf (packFields f) = f := by
  apply CommandFields.ext_toNat
  · rw [fieldsOf_rsvd_toNat, packFields_toNat]; omega
  · rw [fieldsOf_keysel_toNat, packFields_toNat]; omega
  · rw [fieldsOf_op_toNat, packFields_toNat]; omega

/-! ### Legal fields -/

theorem Instr.wellFormed (i : Instr) : i.WellFormed := by cases i <;> rfl

/-- The conditions of 30_encoding.md R74 over numbers. -/
theorem CommandFields.wellFormed_eq_false_iff (f : CommandFields) :
    f.wellFormed = false ↔ f.op.toNat ≥ 8 ∨ f.rsvd.toNat ≠ 0 ∨ (f.keysel.toNat = 1 ∧ f.op.toNat ≠ 1) := by
  have hk : f.keysel = 0 ↔ ¬ f.keysel.toNat = 1 := by bv_omega
  have ho : f.op = 1 ↔ f.op.toNat = 1 := by bv_omega
  have hr : f.rsvd = 0 ↔ f.rsvd.toNat = 0 := by bv_omega
  simp only [wellFormed, opDefined, rsvdZero, keyselAllowed, Bool.and_eq_false_iff, Bool.or_eq_false_iff, beq_eq_false_iff_ne,
    decide_eq_false_iff_not, ne_eq, hk, ho, hr]
  omega

/-! ### The decoder -/

/-- Everything `commandOf` can answer: the command with these fields, or a rejection because they are not legal. -/
theorem commandOf_cases (op : BitVec 4) (keysel : BitVec 1) :
    (∃ i, commandOf op keysel = .ok i ∧ i.fields = ⟨0, keysel, op⟩) ∨
      (∃ e, commandOf op keysel = .error e ∧ CommandFields.wellFormed ⟨0, keysel, op⟩ = false) := by
  unfold commandOf
  split
  · rename_i hop
    subst hop
    rcases BitVec.eq_zero_or_eq_one keysel with rfl | rfl <;> exact .inl ⟨_, rfl, rfl⟩
  rename_i hop
  split
  · rename_i reserved
    exact .inr ⟨_, rfl, (CommandFields.wellFormed_eq_false_iff _).mpr (.inl reserved)⟩
  split
  · refine .inr ⟨_, rfl, (CommandFields.wellFormed_eq_false_iff _).mpr (.inr (.inr ?_))⟩
    dsimp only
    bv_omega
  rename_i hks
  obtain rfl := not_not.mp hks
  iterate 6
    split
    · rename_i h; subst h; exact .inl ⟨_, rfl, rfl⟩
  have last : op = 7 := by bv_omega
  subst last
  exact .inl ⟨_, rfl, rfl⟩

theorem commandOf_fields (i : Instr) : commandOf i.fields.op i.fields.keysel = .ok i := by cases i <;> rfl

theorem decode_of_rsvd_zero {w : Word} (h : (fieldsOf w).rsvd = 0) : decode w = commandOf (fieldsOf w).op (fieldsOf w).keysel :=
  if_neg (not_not.mpr h)

/-- Everything the decoder can answer. -/
theorem decode_cases (w : Word) :
    (∃ i, decode w = .ok i ∧ i.fields = fieldsOf w) ∨ (∃ e, decode w = .error e ∧ (fieldsOf w).wellFormed = false) := by
  by_cases hr : (fieldsOf w).rsvd = 0
  · have hf : fieldsOf w = ⟨0, (fieldsOf w).keysel, (fieldsOf w).op⟩ := by rw [← hr]
    rw [decode_of_rsvd_zero hr, hf]
    exact commandOf_cases _ _
  · refine .inr ⟨_, if_pos hr, (CommandFields.wellFormed_eq_false_iff _).mpr (.inr (.inl ?_))⟩
    exact fun h => hr (BitVec.eq_of_toNat_eq h)

theorem decode_eq_ok_iff_fields {w : Word} {i : Instr} : decode w = .ok i ↔ i.fields = fieldsOf w := by
  constructor
  · intro h
    rcases decode_cases w with ⟨j, hd, hj⟩ | ⟨e, hd, -⟩ <;> rw [hd] at h <;> cases h
    exact hj
  · intro h
    have rsvd : i.fields.rsvd = 0 := by cases i <;> rfl
    rw [decode_of_rsvd_zero (h ▸ rsvd), ← h, commandOf_fields]

theorem decode_eq_ok_iff_encode {w : Word} {i : Instr} : decode w = .ok i ↔ w = encode i := by
  rw [decode_eq_ok_iff_fields, encode]
  constructor
  · intro h; rw [h, packFields_fieldsOf]
  · rintro rfl; rw [fieldsOf_packFields]

theorem decode_ne_ok_iff {w : Word} : (∀ i, decode w ≠ .ok i) ↔ (fieldsOf w).wellFormed = false := by
  rcases decode_cases w with ⟨i, hd, hi⟩ | ⟨e, hd, hw⟩
  · have hwf : i.fields.wellFormed = true := i.wellFormed
    simp [hd, ← hi, hwf]
  · simp [hd, hw]

/-- Settles O3: the decoder answers a command on its word only, and the fields of a word and the word have the same value. -/
theorem decodeAndEncodeAgree : Obligations.DecodeAndEncodeAgree :=
  ⟨fun _ _ => decode_eq_ok_iff_encode.mpr rfl, fun _ _ h => (decode_eq_ok_iff_encode.mp h).symm, packFields_fieldsOf,
    fieldsOf_packFields⟩

/-- The table of 30_encoding.md R75, read from the command to its word. -/
theorem encode_table :
    encode .nop = 0x00000000 ∧ encode .ecbDecryptCore = 0x00000001 ∧ encode .ecbDecryptMeta = 0x00000011 ∧
    encode .unpad = 0x00000002 ∧ encode .keyboxBuild = 0x00000003 ∧ encode .metaUnmask = 0x00000004 ∧
    encode .metaDecrypt = 0x00000005 ∧ encode .unwrapKey = 0x00000006 ∧ encode .streamDecipher = 0x00000007 :=
  ⟨rfl, rfl, rfl, rfl, rfl, rfl, rfl, rfl, rfl⟩

/-- Settles O2: the table's words are the encodings of the nine commands. -/
theorem legalWordsAreTheNine : Obligations.LegalWordsAreTheNine := by
  intro w i
  rw [decode_eq_ok_iff_encode]
  cases i <;> simp [encode_table]

/-- Settles O1: each word written out is the encoding of its command. -/
theorem decodesWrittenWords : Obligations.DecodesWrittenWords := by
  refine ⟨?_, ?_, ?_, ?_, ?_, ?_, ?_, ?_, ?_⟩ <;> exact decode_eq_ok_iff_encode.mpr rfl

end Sys2Proof

namespace Sys2Proof.Machine

/-- When the engine moves with a word in CMD that is no command, the step is the error completion of the ticked state. -/
theorem step_of_illegal {s : State} (h : s.engineMoves) (hd : ∀ i, decode s.cmd ≠ .ok i) :
    step s = .next (s.tick.raise .illegalCmd) := by
  obtain ⟨hm, hb⟩ := h
  rcases step_cases s with ⟨he, -⟩ | ⟨-, hs⟩
  · rw [hm] at he; cases he
  rcases engineStep_cases s.tick with ⟨hi, -⟩ | ⟨-, i, hi, -⟩ | ⟨-, e, -, he⟩
  · exact absurd hb (Bool.eq_false_iff.mp hi)
  · exact absurd hi (hd i)
  · rw [hs, he]

/-- Settles O4: the decoder rejects exactly the words whose fields are not legal, and the engine raises ERR_ILLEGAL_CMD on them. -/
theorem illegalWordsEndWithError : Obligations.IllegalWordsEndWithError := by
  refine ⟨fun w => ?_, fun s h hd => step_of_illegal h hd⟩
  rw [decode_ne_ok_iff, CommandFields.wellFormed_eq_false_iff, fieldsOf_op_toNat, fieldsOf_rsvd_toNat, fieldsOf_keysel_toNat]

end Sys2Proof.Machine
end

section
/-! SUPPORT. The host program notation (30_encoding.md R76, R77): its waits, and its pseudo-operations. -/

namespace Sys2Proof.Machine

/-- An aligned POLL is met when the register's field has the value. -/
theorem pollMet_iff {o : BitVec 12} (ho : o.toNat % 4 = 0) (s : State) (mask v : Word) :
    s.pollMet o mask v = true ↔ s.readRegister o &&& mask = v := by
  rw [State.pollMet, accessAccepted_word ho, Bool.true_and, beq_iff_eq]

/-- An aligned POLL answers the register, and is taken off the host's list when it is met. -/
theorem step_poll {s : State} {o : BitVec 12} {mask v : Word} (ho : o.toNat % 4 = 0) (h : s.hostDoes (.poll o mask v)) :
    step s = if s.readRegister o &&& mask = v then .next { s.afterAccess with answer := .word (s.readRegister o) }
      else .next { s.afterAccess with host := s.host, answer := .word (s.readRegister o) } := by
  rw [step_of_hostDoes h, hostAccess, State.registerAnswer, if_pos (accessAccepted_word ho)]
  exact if_congr (pollMet_iff ho s.tick mask v) rfl rfl

/-- A wait for the IRQ is taken off the host's list when the IRQ is high, and else stays. -/
theorem step_waitIrq {s : State} (h : s.hostDoes .waitIrq) :
    step s = if s.irq = true then .next s.afterAccess else .next { s.afterAccess with host := s.host } :=
  step_of_hostDoes h

/-- Settles O52: the two waits are taken off the list exactly when they are met. -/
theorem waitsRepeatUntilMet : Obligations.WaitsRepeatUntilMet := by
  refine ⟨fun s o mask v ho h => ⟨fun met => ?_, fun unmet => ?_⟩, fun s h => ⟨fun high => ?_, fun low => ?_⟩⟩
  · rw [step_poll ho h, if_pos met]
  · rw [step_poll ho h, if_neg unmet]
  · rw [step_waitIrq h, if_pos high]
  · rw [step_waitIrq h, if_neg (Bool.eq_false_iff.mp low)]

/-- The write of an operand of ISSUE, where it is given. -/
theorem lineOperand_eq_toList (r : RegName) (v : Option Word) :
    lineOperand r v = (v.map (HostOp.regWrite r.offset .word)).toList := by
  cases v <;> rfl

/-- The accesses of ISSUE and ISSUE.I, the operands' writes first. -/
theorem issueWith_eq (ctrl : Word) (i : Instr) (a d n : Option Word) :
    issueWith ctrl i a d n =
      (a.map (HostOp.regWrite 0x010 .word)).toList ++ (d.map (HostOp.regWrite 0x014 .word)).toList ++
        (n.map (HostOp.regWrite 0x018 .word)).toList ++ [.regWrite 0x00C .word (encode i), .regWrite 0x004 .word ctrl] := by
  simp only [issueWith, lineOperand_eq_toList, List.append_assoc]
  rfl

/-- Settles O53: ISSUE and ISSUE.I differ in the value for CTRL, and each of the others is one line of the notation. -/
theorem pseudoOperationsExpand : Obligations.PseudoOperationsExpand :=
  ⟨issueWith_eq 0x00000001, issueWith_eq 0x00000005, rfl, rfl, fun _ => rfl, rfl⟩

end Sys2Proof.Machine
end

section
/-! SUPPORT. How a command is started and run (40_control.md): a START and the register accesses beside it (O44, O46), the step that
runs the command (O5, O6), and NOP (O8). -/

namespace Sys2Proof.Machine

variable {s : State} {i : Instr}

/-! ### START, and register accesses while a command runs -/

/-- A write of CTRL is accepted and acts as `writeCtrl` says (10_state.md R23). -/
theorem step_writeCtrl {v : Word} (h : s.hostDoes (.regWrite 0x004 .word v)) :
    step s = .next { s.afterAccess.writeCtrl v with answer := .accepted } := step_regWrite rfl h

/-- A write of CTRL without SRST to a busy engine is a write of IRQ_EN, whatever its START bit (40_control.md R100, R101). -/
theorem step_writeCtrl_busy {v : Word} (hb : s.busy = true) (h : s.hostDoes (.regWrite 0x004 .word v)) (h1 : v.getLsbD 1 = false) :
    step s = .next { s.afterAccess with irqEn := v.getLsbD 2, answer := .accepted } := by
  rw [step_writeCtrl h, writeCtrl_of_irqEn (s := s.afterAccess) h1 (.inr hb)]
  rfl

/-- Settles O44: an accepted START clears DONE, and with it the IRQ; while BUSY only IRQ_EN is written. -/
theorem acceptedStart : Obligations.AcceptedStart := by
  intro s v h h0 h1
  refine ⟨fun hb => ⟨_, ?_, rfl, ?_⟩, fun hb => step_writeCtrl_busy hb h h1⟩
  · rw [step_writeCtrl h, writeCtrl_of_start (s := s.afterAccess) h1 h0 hb]
    rfl
  · exact Bool.and_false _

/-- The registers that a busy engine does not let the host write (40_control.md R101). -/
theorem writeRegister_busy {o : BitVec 12} (ho : o = 0x00C ∨ o = 0x010 ∨ o = 0x014 ∨ o = 0x018 ∨ o = 0x020 ∨ o = 0x008)
    (hb : s.busy = true) (v : Word) : s.writeRegister o v = s := by
  have ignored (t : State) : s.whenIdle t = s := if_pos hb
  rcases ho with rfl | rfl | rfl | rfl | rfl | rfl
  · exact ignored { s with cmd := v }
  · exact ignored { s with src := v }
  · exact ignored { s with dst := v }
  · exact ignored { s with len := v }
  · exact ignored { s with streamPos := v }
  · exact if_pos (α := State) hb

/-- Settles O46: the writes that `writeRegister_busy` ignores, the two cases of a CTRL write, and the reads, 0 in the key box window. -/
theorem writesWhileBusy : Obligations.WritesWhileBusy := by
  intro s v hb
  refine ⟨fun o ho h => ?_, step_writeCtrl_busy hb, fun h h1 => ⟨_, step_writeCtrl h, ?_⟩, fun _ => step_regRead,
    fun o _ hlo hhi => ?_⟩
  · have aligned : o.toNat % 4 = 0 := by rcases ho with rfl | rfl | rfl | rfl | rfl | rfl <;> rfl
    rw [step_regWrite aligned h, writeRegister_busy (s := s.afterAccess) ho hb]
  · rw [writeCtrl_of_srst h1]
    exact ⟨rfl, rfl⟩
  · rw [readRegister_window hlo hhi, keyboxWin_of_hidden (.inr hb)]

/-! ### The step that runs the command -/

/-- When the engine moves with a command in CMD, the step is that command on the ticked state (40_control.md R102). -/
theorem step_of_command (h : s.engineMoves) (hd : decode s.cmd = .ok i) : step s = exec i s.tick := by
  obtain ⟨hm, hb⟩ := h
  rw [step, machineStep, hm]
  simp only [engineStep, show s.tick.busy = true from hb, show decode s.tick.cmd = .ok i from hd, if_true]

/-- An agent with nothing to do only lets the turn pass: an idle engine, or a host with no access pending. -/
theorem step_of_nothing_pending (hh : s.host = []) (h : s.mover = .host ∨ s.busy = false) : step s = .next s.tick := by
  rcases step_cases s with ⟨-, he⟩ | ⟨hm, he⟩ <;> rw [he]
  · rw [hostStep, show s.tick.host = [] from hh]
  · have idle : s.busy = false := h.resolve_left (by rw [hm]; exact nofun)
    rw [engineStep, show s.tick.busy = false from idle]
    rfl

/-- Settles O5: the engine's command, the host's access, or only the tick. -/
theorem stepRunsTheDecodedCommand : Obligations.StepRunsTheDecodedCommand :=
  ⟨fun _ _ h _ hd => step_of_command h hd, fun _ _ => step_of_hostDoes, fun _ hb hh => step_of_nothing_pending hh (.inr hb)⟩

theorem withFetchWord_toNat (s : State) (w : Word) : s.withFetchWord 32 w.toNat = s.startWord w := by
  rw [State.withFetchWord, Nat.mod_eq_of_lt w.isLt, BitVec.ofNat_toNat, BitVec.setWidth_eq]

/-- Settles O6: after an accepted START the engine is busy with the word in CMD, and has the first turn. -/
theorem fetchWordRunsNext : Obligations.FetchWordRunsNext := by
  intro s w i hd
  rw [withFetchWord_toNat, step_of_command (s := s.startWord w) ⟨rfl, rfl⟩ hd]
  rfl

/-! ### NOP -/

theorem exec_nop (s : State) : exec .nop s = .next (s.complete 0) := rfl

/-- STATUS after a completion without an error: DONE, and KB_VALID as it was (10_state.md R24). -/
theorem complete_statusWord (s : State) (n : Nat) : (s.complete n).statusWord = if s.kbValid then 0x0000000A else 0x00000002 := by
  have flags : ∀ k : Bool, flagAt 0 false ||| flagAt 1 true ||| flagAt 2 false ||| flagAt 3 k = if k then 0xA else 0x2 := by decide
  exact flags s.kbValid

/-- Settles O8: NOP is `complete(0)`, and a word with OP 0 that is not 0 has a bit in KEYSEL or RSVD. -/
theorem nopCompletes : Obligations.NopCompletes := by
  refine ⟨rfl, fun w hop hw => ?_, fun s => ⟨_, exec_nop s, rfl, complete_statusWord s 0⟩⟩
  rw [decode_ne_ok_iff, CommandFields.wellFormed_eq_false_iff, fieldsOf_op_toNat, fieldsOf_rsvd_toNat, fieldsOf_keysel_toNat]
  have : w.toNat ≠ 0 := fun h => hw (BitVec.eq_of_toNat_eq h)
  omega

end Sys2Proof.Machine
end

section
/-! SUPPORT. The result of a command does not depend on where its output window is (40_control.md R105; O31). -/

namespace Sys2Proof.Machine

variable {s t : State} {i : Instr}

/-- What a command answers (40_control.md R102): the error that it ends with, or the bytes of its output. -/
def resultOf (i : Instr) (s : State) : Except CmdError (List Byte) :=
  match precheck i s with
  | some e => .error e
  | none => bodyOf i s s.input

/-- A command that answers a next state raises the error of its result, or writes its result at DST and completes. -/
theorem exec_result (h : exec i s = .next t) :
    (∃ e, resultOf i s = .error e ∧ t = s.raise e) ∨
      ∃ out, resultOf i s = .ok out ∧ out.length ≤ outSize i s ∧
        t = ((effectOf i s s.input).dmaWrite s.dst.toNat out).complete out.length := by
  by_cases hi : i = .nop
  · subst hi
    cases h
    exact .inr ⟨[], rfl, Nat.le_refl _, rfl⟩
  · rw [exec_eq_runCommand hi] at h
    unfold resultOf
    rcases runCommand_cases h with ⟨e, ht, he | ⟨hp, -, he⟩⟩ | ⟨out, hp, -, ho, ht⟩
    · rw [he]; exact .inl ⟨e, rfl, ht⟩
    · rw [hp]; exact .inl ⟨e, he, ht⟩
    · rw [hp]; exact .inr ⟨out, ho, bodyOf_length (length_input s) ho, ht⟩

/-- `s` with another destination. -/
def State.withDst (s : State) (d : Word) : State := { s with dst := d }

theorem bodyOf_withDst (i : Instr) (s : State) (d : Word) : bodyOf i (s.withDst d) = bodyOf i s := by cases i <;> rfl

theorem effectOf_withDst (i : Instr) (s : State) (d : Word) (input : List Byte) :
    effectOf i (s.withDst d) input = (effectOf i s input).withDst d := by cases i <;> rfl

/-- Only the window checks look at DST, so where both windows pass them the result is the same. -/
theorem resultOf_withDst {d : Word} (hs : windowCheck i s = none) (hd : windowCheck i (s.withDst d) = none) :
    resultOf i (s.withDst d) = resultOf i s := by
  have hp : precheck i (s.withDst d) = precheck i s := by
    unfold precheck
    rw [hs, hd]
    rfl
  rw [resultOf, resultOf, hp, bodyOf_withDst]
  rfl

/-- Over maintained windows the output stands at DST (40_control.md R105, 20_memory.md R62). -/
theorem output_read {out input : List Byte} {n m k : Nat} (hm : s.Maintained n m) (hl : out.length ≤ m) (hk : k < out.length) :
    ((effectOf i s input).dmaWrite s.dst.toNat out).mem.read (s.dst.toNat + k) = out.getD k 0 := by
  have flushed : ∀ j, j < out.length → ((effectOf i s input).mark (s.dst.toNat + j)).unflushed = false := fun j hj => by
    rw [effectOf_eq]
    exact hm.2 j (hj.trans_le hl)
  rw [dmaWrite_read _ _ _ flushed, if_pos (by omega), Nat.add_sub_cancel_left]

/-- Settles O31: both runs have the same result, which each raises, or writes at its own destination. -/
theorem resultIndependentOfDestination : Obligations.ResultIndependentOfDestination := by
  intro i s d t u hws hms hwd hmd ht hu
  have same : resultOf i (s.withDst d) = resultOf i s :=
    resultOf_withDst (WindowsGood.passes hws).1 (WindowsGood.passes (s := s.withDst d) hwd).1
  rcases exec_result ht with ⟨e, he, rfl⟩ | ⟨out, ho, hl, rfl⟩ <;>
    rcases exec_result (s := s.withDst d) hu with ⟨e', he', rfl⟩ | ⟨out', ho', -, rfl⟩
  · cases he.symm.trans (same.symm.trans he')
    exact ⟨rfl, rfl, rfl, rfl, fun k hk => absurd hk (Nat.not_lt_zero k)⟩
  · cases he.symm.trans (same.symm.trans ho')
  · cases ho.symm.trans (same.symm.trans he')
  · cases ho.symm.trans (same.symm.trans ho')
    refine ⟨rfl, rfl, ?_, ?_, fun k hk => ?_⟩
    · simp only [complete_keybox, dmaWrite_keybox, effectOf_withDst]; rfl
    · simp only [complete_streamPos, dmaWrite_streamPos, effectOf_withDst]; rfl
    · rw [complete_outLen, toNat_ofNat_length hl] at hk
      rw [complete_mem, complete_mem, output_read hms hl hk]
      exact output_read (s := s.withDst d) hmd hl hk

end Sys2Proof.Machine
end

section
/-! SUPPORT. An accepted command completes within the scheduled turns (40_control.md R109; O60). -/

namespace Sys2Proof.Machine

variable {s t : State}

/-- When the engine moves, the command completes, or is a command over a window that is no plain memory, which stops the run. -/
theorem step_completes (h : s.engineMoves) :
    (∃ t, step s = .next t ∧ t.busy = false ∧ t.done = true) ∨
      ∃ i f, decode s.cmd = .ok i ∧ windowsPlain i s = false ∧ step s = .fault f := by
  cases hd : decode s.cmd with
  | error e => exact .inl ⟨_, step_of_illegal h (by simp [hd]), rfl, rfl⟩
  | ok i =>
    rw [step_of_command h hd]
    cases he : exec i s.tick with
    | next t => exact .inl ⟨t, rfl, by rw [exec_eq he]; exact ⟨rfl, rfl⟩⟩
    | fault f => exact .inr ⟨i, f, rfl, (nonIdempotentWindowFaults.2.1 i s.tick f he).2.2, rfl⟩
    | refused r => exact absurd he (nonIdempotentWindowFaults.2.2 i s.tick r)

theorem mover_of_turns {a : Agent} {rest : List Agent} (h : s.turns = a :: rest) : s.mover = a := by simp [State.mover, h]

/-- A busy engine moves unless the next turn is the host's (40_control.md R109; assumption 1). -/
theorem hostTurn_or_engineMoves (hb : s.busy = true) : (∃ rest, s.turns = .host :: rest) ∨ s.engineMoves := by
  cases ht : s.turns with
  | nil => exact .inr ⟨by simp [State.mover, ht, hb], hb⟩
  | cons a rest =>
    cases a with
    | host => exact .inl ⟨rest, rfl⟩
    | engine => exact .inr ⟨mover_of_turns ht, hb⟩

/-- No access of the host touches the schedule of turns. -/
theorem HostEffect.turns {op : HostOp} (h : HostEffect op s t) : t.turns = s.turns := by
  cases h with
  | reset _ h => rw [h]; simp [State.resetEngine, State.abort]
  | bookkeeping h | irqEnable h | start h | acknowledge _ _ h | operands _ _ h => exact (congrArg State.turns h :)
  | memory h => exact (congrArg State.turns h.1 :)

/-- A step of the host uses its turn and no other. -/
theorem turns_of_hostTurn {rest : List Agent} (hr : s.turns = .host :: rest) (h : step s = .next t) : t.turns = rest := by
  have ticked : s.tick.turns = rest := congrArg List.tail hr
  rcases step_effect h with rfl | ⟨op, -, he⟩ | ⟨⟨hm, -⟩, -⟩
  · exact ticked
  · exact he.turns.trans ticked
  · rw [mover_of_turns hr] at hm; cases hm

/-- What follows of a busy state when the engine's turn gives it, and when a turn of the host's gives it from the busy state after:
the schedule is finite, and at its end a busy engine moves (assumption 1). -/
theorem busy_induction {P : State → Prop} (engine : ∀ s, s.engineMoves → P s)
    (host : ∀ s rest, s.busy = true → s.turns = .host :: rest → (∀ t, step s = .next t → t.busy = true → P t) → P s) :
    ∀ s : State, s.busy = true → P s := by
  intro s hb
  rcases hostTurn_or_engineMoves hb with ⟨rest, hr⟩ | hm
  · refine host s rest hb hr fun t ht hbt => ?_
    have shorter : t.turns.length < s.turns.length := by simp [turns_of_hostTurn hr ht, hr]
    exact busy_induction engine host t hbt
  · exact engine s hm
termination_by s => s.turns.length

theorem run_succ_of_next (h : step s = .next t) (k : Nat) : core.run (k + 1) s = core.run k t := by
  simp only [Host.Core.run, show core.step s = .next t from h]

theorem run_one (s : State) : core.run 1 s = step s := by
  have hs : core.step s = step s := rfl
  cases h : step s <;> simp only [Host.Core.run, hs, h] <;> rfl

/-- A run does not stay busy for more steps than there are turns, and one: each step leaves the engine idle, or stops the run, or uses a
turn of the host's. -/
theorem run_leaves_busy :
    ∀ s : State, s.busy = true → ∃ k, k ≤ s.turns.length + 1 ∧ ∀ t, core.run k s = .next t → t.busy = false := by
  refine busy_induction (fun s hm => ⟨1, Nat.le_add_left 1 _, fun t ht => ?_⟩) (fun s rest _ hr ih => ?_)
  · rw [run_one] at ht
    rcases step_completes hm with ⟨u, hu, idle, -⟩ | ⟨-, f, -, -, hf⟩
    · cases hu.symm.trans ht; exact idle
    · cases hf.symm.trans ht
  · by_cases stays : ∃ t, step s = .next t ∧ t.busy = true
    · obtain ⟨t, ht, hbt⟩ := stays
      obtain ⟨k, hk, hrun⟩ := ih t ht hbt
      refine ⟨k + 1, ?_, fun u hu => hrun u (run_succ_of_next ht k ▸ hu)⟩
      rw [turns_of_hostTurn hr ht] at hk
      simpa [hr] using hk
    · exact ⟨1, Nat.le_add_left 1 _, fun t ht => Bool.eq_false_iff.mpr fun hbt => stays ⟨t, run_one s ▸ ht, hbt⟩⟩

/-- With no host access pending the host's turns pass, and over plain windows the engine's turn completes the command. -/
theorem run_completes :
    ∀ s : State, s.busy = true → s.host = [] → (∀ i, decode s.cmd = .ok i → windowsPlain i s = true) →
      ∃ k t, k ≤ s.turns.length + 1 ∧ core.run k s = .next t ∧ t.busy = false ∧ t.done = true := by
  refine busy_induction (fun s hm _ hw => ?_) (fun s rest hb hr ih hh hw => ?_)
  · rcases step_completes hm with ⟨t, ht, done⟩ | ⟨i, f, hd, hp, -⟩
    · exact ⟨1, t, Nat.le_add_left 1 _, (run_one s).trans ht, done⟩
    · rw [hw i hd] at hp; cases hp
  · have tick : step s = .next s.tick := step_of_nothing_pending hh (.inl (mover_of_turns hr))
    obtain ⟨k, t, hk, hrun, done⟩ := ih s.tick tick hb hh hw
    refine ⟨k + 1, t, ?_, (run_succ_of_next tick k).trans hrun, done⟩
    rw [turns_of_hostTurn hr tick] at hk
    simpa [hr] using hk

/-- Settles O60: the run leaves the busy states within the turns, and on plain windows with a completion. -/
theorem acceptedCommandCompletes : Obligations.AcceptedCommandCompletes := by
  refine fun s hb => ⟨?_, run_completes s hb⟩
  obtain ⟨k, hk, idle⟩ := run_leaves_busy s hb
  refine ⟨k, hk, ?_⟩
  cases hr : core.run k s with
  | next t => exact .inl ⟨t, rfl, idle t hr⟩
  | fault f => exact .inr (.inl ⟨f, rfl⟩)
  | refused r => exact .inr (.inr ⟨r, rfl⟩)

end Sys2Proof.Machine
end

section
/-! SUPPORT. The default block cipher (41_block_cipher.md R122 to R127): its field arithmetic and S-box (O18), its round transformations
(O19), its key schedule (O20), and the sequence of its rounds (O21). -/

namespace Sys2Proof.Machine

/-! ### Field arithmetic (41_block_cipher.md R122) -/

theorem xtime_toNat (a : Byte) : (xtime a).toNat = if a.toNat < 128 then 2 * a.toNat else 2 * a.toNat % 256 ^^^ 0x1B := by
  have top : a.getLsbD 7 = decide (128 ≤ a.toNat) := BitVec.msb_eq_decide a
  have double : a.toNat <<< 1 = 2 * a.toNat := by rw [Nat.shiftLeft_eq]; omega
  rw [xtime, top, BitVec.toNat_xor, BitVec.toNat_shiftLeft, double]
  by_cases h : a.toNat < 128
  · rw [if_pos h, if_neg (by simpa using h), Nat.mod_eq_of_lt (by omega)]
    exact Nat.xor_zero _
  · rw [if_neg h, if_pos (by simpa using h)]
    rfl

theorem xtime_xor (a b : Byte) : xtime (a ^^^ b) = xtime a ^^^ xtime b := by
  have shift : (a ^^^ b) <<< 1 = a <<< 1 ^^^ b <<< 1 := BitVec.shiftLeft_xor_distrib a b 1
  have feedback (p q : Bool) : (if (p ^^ q) then 0x1B else 0x00 : Byte) = (if p then 0x1B else 0x00) ^^^ (if q then 0x1B else 0x00) := by
    cases p <;> cases q <;> rfl
  unfold xtime
  rw [shift, BitVec.getLsbD_xor, feedback]
  ac_rfl

theorem xtimes_eq_iterate (i : Nat) (a : Byte) : xtimes i a = xtime^[i] a := by
  induction i with
  | zero => rfl
  | succ i ih => rw [Function.iterate_succ_apply', ← ih]; rfl

/-- `mul(a, b)` written out, the bits of `b` from the lowest on. -/
theorem gfMul_eq (a b : Byte) : gfMul a b =
    (if b.getLsbD 0 then a else 0) ^^^ (if b.getLsbD 1 then xtime^[1] a else 0) ^^^ (if b.getLsbD 2 then xtime^[2] a else 0) ^^^
      (if b.getLsbD 3 then xtime^[3] a else 0) ^^^ (if b.getLsbD 4 then xtime^[4] a else 0) ^^^
      (if b.getLsbD 5 then xtime^[5] a else 0) ^^^ (if b.getLsbD 6 then xtime^[6] a else 0) ^^^
      (if b.getLsbD 7 then xtime^[7] a else 0) := by
  have term (acc x : Byte) (p : Bool) : (if p then acc ^^^ x else acc) = acc ^^^ (if p then x else 0) := by cases p <;> simp
  have start (x : Byte) : 0 ^^^ x = x := BitVec.zero_xor
  have bits : List.range 8 = [0, 1, 2, 3, 4, 5, 6, 7] := rfl
  simp only [gfMul, xtimes_eq_iterate, term, bits, List.foldl_cons, List.foldl_nil, start, Function.iterate_zero, id_eq]

/-- A function that takes XOR to XOR, and may be applied before or after `xtime`, may be applied before or after a multiplication. -/
theorem map_gfMul {f : Byte → Byte} (hx : ∀ a b, f (a ^^^ b) = f a ^^^ f b) (hc : ∀ a, f (xtime a) = xtime (f a)) (a b : Byte) :
    f (gfMul a b) = gfMul (f a) b := by
  have zero : f 0 = 0 := by simpa using hx 0 0
  have iter (i : Nat) : f (xtime^[i] a) = xtime^[i] (f a) := Function.Semiconj.iterate_right hc i a
  simp only [gfMul_eq, hx, apply_ite f, zero, iter]

theorem iterate_xtime_xor (i : Nat) (a b : Byte) : xtime^[i] (a ^^^ b) = xtime^[i] a ^^^ xtime^[i] b := by
  induction i with
  | zero => rfl
  | succ i ih => simp only [Function.iterate_succ_apply', ih, xtime_xor]

theorem gfMul_xor (a a' b : Byte) : gfMul (a ^^^ a') b = gfMul a b ^^^ gfMul a' b := by
  have term (p : Bool) (x y : Byte) : (if p then x ^^^ y else 0) = (if p then x else 0) ^^^ (if p then y else 0) := by cases p <;> simp
  simp only [gfMul_eq, iterate_xtime_xor, term]
  ac_rfl

/-- Multiplications by two bytes, each a sum of repeated `xtime`, may be done in either order. -/
theorem gfMul_right_comm (a b c : Byte) : gfMul (gfMul a b) c = gfMul (gfMul a c) b :=
  map_gfMul (f := fun x => gfMul x c) (fun x y => gfMul_xor x y c) (fun x => (map_gfMul xtime_xor (fun _ => rfl) x c).symm) a b

theorem one_gfMul (b : Byte) : gfMul 1 b = b := by revert b; decide +kernel

/-- A byte has at most one inverse: `b'` is `b'` times the product of `a` and `b`, which is `b` times the product of `a` and `b'`. -/
theorem inverse_unique {a b b' : Byte} (h : gfMul a b = 1) (h' : gfMul a b' = 1) : b' = b := by
  calc b' = gfMul (gfMul a b) b' := by rw [h, one_gfMul]
    _ = gfMul (gfMul a b') b := gfMul_right_comm a b b'
    _ = b := by rw [h', one_gfMul]

/-! ### The S-box (41_block_cipher.md R123) -/

/-- The affine map of R123 undone on the byte that the table of `S` holds. -/
def sboxPreimage (a : Byte) : Byte := (sbox a).rotateLeft 1 ^^^ (sbox a).rotateLeft 3 ^^^ (sbox a).rotateLeft 6 ^^^ 0x05

theorem sbox_eq_affine (a : Byte) : sbox a = sboxPreimage a ^^^ (sboxPreimage a).rotateLeft 1 ^^^ (sboxPreimage a).rotateLeft 2 ^^^
    (sboxPreimage a).rotateLeft 3 ^^^ (sboxPreimage a).rotateLeft 4 ^^^ 0x63 := by
  revert a; decide +kernel

/-- Under the affine map stands the inverse (41_block_cipher.md R122: that of 0 is taken to be 0). -/
theorem sboxPreimage_inverse (a : Byte) : if a = 0 then sboxPreimage a = 0 else gfMul a (sboxPreimage a) = 0x01 := by
  revert a; decide +kernel

theorem gfMul_sboxPreimage {a : Byte} (h : a ≠ 0) : gfMul a (sboxPreimage a) = 0x01 := by
  have := sboxPreimage_inverse a
  rwa [if_neg h] at this

theorem invSbox_sbox (a : Byte) : invSbox (sbox a) = a := by revert a; decide +kernel

/-- Settles O18: the byte under the affine map of `S` is an inverse, and there is no second one. -/
theorem sboxTablesMatchDefinition : Obligations.SboxTablesMatchDefinition :=
  ⟨xtime_toNat, gfMul_eq, fun a ha => ⟨sboxPreimage a, gfMul_sboxPreimage ha, fun _ hb => inverse_unique (gfMul_sboxPreimage ha) hb⟩,
    fun a => ⟨sboxPreimage a, sboxPreimage_inverse a, sbox_eq_affine a⟩, invSbox_sbox⟩

/-! ### The inverse round transformations (41_block_cipher.md R125) -/

@[simp] theorem cell_ofCells (f : Fin 4 → Fin 4 → Byte) (r c : Fin 4) : cell (ofCells f) r c = f r c := by
  have row : (r.val + 4 * c.val) % 4 = r.val := by omega
  have column : (r.val + 4 * c.val) / 4 = c.val := by omega
  simp only [cell, ofCells, Vector.getElem_ofFn, row, column, Fin.eta]

theorem cell_invShiftRows (s : Block) (r c : Fin 4) : cell (invShiftRows s) r (c + r) = cell s r c := by
  rw [invShiftRows, cell_ofCells, add_sub_cancel_right]

theorem cell_invSubBytes (s : Block) (r c : Fin 4) : cell (invSubBytes s) r c = invSbox (cell s r c) := Vector.getElem_map ..

theorem cell_addRoundKey (s rk : Block) (r c : Fin 4) : cell (addRoundKey s rk) r c = cell s r c ^^^ rk[r.val + 4 * c.val] :=
  Vector.getElem_zipWith ..

theorem cell_invMixColumns (s : Block) (r c : Fin 4) : cell (invMixColumns s) r c =
    gfMul 0x0E (cell s r c) ^^^ gfMul 0x0B (cell s (r + 1) c) ^^^ gfMul 0x0D (cell s (r + 2) c) ^^^ gfMul 0x09 (cell s (r + 3) c) :=
  cell_ofCells ..

/-- Settles O19: each transformation by the lemma of its cells, the products of a column put in the order of the rows. -/
theorem inverseRoundTransformations : Obligations.InverseRoundTransformations := by
  intro s rk c
  refine ⟨fun r => cell_invShiftRows s r c, fun r => cell_invSubBytes s r c, fun r => cell_addRoundKey s rk r c, ?_, ?_, ?_, ?_⟩
  · exact cell_invMixColumns s 0 c
  · rw [cell_invMixColumns, show (1 : Fin 4) + 1 = 2 from rfl, show (1 : Fin 4) + 2 = 3 from rfl, show (1 : Fin 4) + 3 = 0 from rfl]
    ac_rfl
  · rw [cell_invMixColumns, show (2 : Fin 4) + 1 = 3 from rfl, show (2 : Fin 4) + 2 = 0 from rfl, show (2 : Fin 4) + 3 = 1 from rfl]
    ac_rfl
  · rw [cell_invMixColumns, show (3 : Fin 4) + 1 = 0 from rfl, show (3 : Fin 4) + 2 = 1 from rfl, show (3 : Fin 4) + 3 = 2 from rfl]
    ac_rfl

/-! ### The key schedule (41_block_cipher.md R124) -/

/-- The word that `extendSchedule` appends to the words so far. -/
def nextWord (key : Block) (ws : List KeyWord) : KeyWord := (extendSchedule key ws).getLastD (Vector.replicate 4 0)

/-- The first `n` words of the schedule. -/
def firstWords (key : Block) (n : Nat) : List KeyWord := (List.range n).foldl (fun ws _ => extendSchedule key ws) []

theorem extendSchedule_eq (key : Block) (ws : List KeyWord) : extendSchedule key ws = ws ++ [nextWord key ws] := by
  unfold nextWord extendSchedule
  dsimp only
  split
  · simp
  · simp

theorem nextWord_of_key {key : Block} {ws : List KeyWord} (h : ws.length < 4) : nextWord key ws = keyWord key ⟨ws.length, h⟩ := by
  simp [nextWord, extendSchedule, h]

theorem nextWord_of_words {key : Block} {ws : List KeyWord} (h : 4 ≤ ws.length) :
    nextWord key ws = xorWord (scheduleWord ws (ws.length - 4)) (if ws.length % 4 = 0 then
      xorWord (subWord (rotWord (scheduleWord ws (ws.length - 1)))) #v[roundConstant (ws.length / 4), 0, 0, 0]
        else scheduleWord ws (ws.length - 1)) := by
  simp [nextWord, extendSchedule, show ¬ ws.length < 4 by omega]

theorem firstWords_succ (key : Block) (n : Nat) : firstWords key (n + 1) = firstWords key n ++ [nextWord key (firstWords key n)] := by
  rw [← extendSchedule_eq, firstWords, List.range_succ, List.foldl_append]
  rfl

@[simp] theorem length_firstWords (key : Block) (n : Nat) : (firstWords key n).length = n := by
  induction n with
  | zero => rfl
  | succ n ih => rw [firstWords_succ, List.length_append, ih]; rfl

/-- A word stays as it was appended. -/
theorem scheduleWord_firstWords (key : Block) {i n : Nat} (h : i < n) :
    scheduleWord (firstWords key n) i = nextWord key (firstWords key i) := by
  induction n with
  | zero => omega
  | succ n ih =>
    rw [firstWords_succ, scheduleWord]
    by_cases hi : i = n
    · subst hi
      rw [List.getD_append_right _ _ _ _ (by simp)]
      simp
    · rw [List.getD_append _ _ _ _ (by simp; omega)]
      exact ih (by omega)

theorem scheduleWord_of_key (key : Block) {i : Nat} (h : i < 4) : scheduleWord (keySchedule key) i = keyWord key ⟨i, h⟩ := by
  have whole : keySchedule key = firstWords key 44 := rfl
  rw [whole, scheduleWord_firstWords key (by omega), nextWord_of_key (by simpa using h)]
  simp only [length_firstWords]

/-- The recurrence of R124, both of its cases. -/
theorem scheduleWord_of_words (key : Block) {i : Nat} (h4 : 4 ≤ i) (h44 : i < 44) :
    scheduleWord (keySchedule key) i = xorWord (scheduleWord (keySchedule key) (i - 4)) (if i % 4 = 0 then
      xorWord (subWord (rotWord (scheduleWord (keySchedule key) (i - 1)))) #v[roundConstant (i / 4), 0, 0, 0]
        else scheduleWord (keySchedule key) (i - 1)) := by
  have whole : keySchedule key = firstWords key 44 := rfl
  have earlier {j : Nat} (hj : j < i) : scheduleWord (firstWords key i) j = scheduleWord (firstWords key 44) j := by
    rw [scheduleWord_firstWords key hj, scheduleWord_firstWords key (by omega)]
  rw [whole, scheduleWord_firstWords key h44, nextWord_of_words (by simpa using h4), length_firstWords, earlier (by omega),
    earlier (by omega)]

theorem getElem_roundKey (ws : List KeyWord) (r : Nat) {r' c : Nat} (hr : r' < 4) (hc : c < 4) :
    (roundKey ws r)[r' + 4 * c] = (scheduleWord ws (4 * r + c))[r'] :=
  cell_ofCells (fun r' c => (scheduleWord ws (4 * r + c.val))[r'.val]) ⟨r', hr⟩ ⟨c, hc⟩

/-- The key of the example of R124 (FIPS-197 Appendix A.1). -/
def exampleKey : Block := #v[0x2B, 0x7E, 0x15, 0x16, 0x28, 0xAE, 0xD2, 0xA6, 0xAB, 0xF7, 0x15, 0x88, 0x09, 0xCF, 0x4F, 0x3C]

theorem exampleKey_roundKey_one : roundKey (keySchedule exampleKey) 1 =
    #v[0xA0, 0xFA, 0xFE, 0x17, 0x88, 0x54, 0x2C, 0xB1, 0x23, 0xA3, 0x39, 0x39, 0x2A, 0x6C, 0x76, 0x05] := by decide +kernel

theorem exampleKey_roundKey_ten : roundKey (keySchedule exampleKey) 10 =
    #v[0xD0, 0x14, 0xF9, 0xA8, 0xC9, 0xEE, 0x25, 0x89, 0xE1, 0x3F, 0x0C, 0xC8, 0xB6, 0x63, 0x0C, 0xA6] := by decide +kernel

/-- Settles O20: `w` is the schedule, whose words are the key's and then those of the recurrence; the example is evaluated. -/
theorem keyScheduleRecurrence : Obligations.KeyScheduleRecurrence := by
  intro key w hw
  obtain rfl : w = scheduleWord (keySchedule key) := funext hw
  refine ⟨length_firstWords key 44, fun i j hi hj => ?_, fun i h4 h44 hi => ?_, fun i h4 h44 hi => ?_,
    fun r r' c _ hr hc => getElem_roundKey _ r hr hc, fun _ _ _ _ => rfl,
    fun t t' j hj => ⟨Vector.getElem_map .., Vector.getElem_zipWith ..⟩, rfl, exampleKey_roundKey_one, exampleKey_roundKey_ten⟩
  · rw [scheduleWord_of_key key hi]
    exact Vector.getElem_ofFn _
  · rw [scheduleWord_of_words key h4 h44, if_pos hi]
  · rw [scheduleWord_of_words key h4 h44, if_neg hi]

/-! ### The sequence of the rounds (41_block_cipher.md R126, R127) -/

/-- The rounds `n` down to 1 take the state before round `n` to the state after round 1. -/
theorem foldl_invRound {ws : List KeyWord} {s : Nat → Block} {n : Nat}
    (h : ∀ r, 1 ≤ r → r ≤ n → s r = invRound ws (s (r + 1)) r) :
    (List.range' 1 n).reverse.foldl (invRound ws) (s (n + 1)) = s 1 := by
  induction n with
  | zero => rfl
  | succ n ih =>
    have hs : invRound ws (s (n + 1 + 1)) (1 + n) = s (n + 1) := by rw [h (n + 1) (by omega) (Nat.le_refl _), Nat.add_comm 1 n]
    rw [List.range'_1_concat, List.reverse_concat, List.foldl_cons, hs]
    exact ih fun r h1 hn => h r h1 (by omega)

theorem blockDecrypt_fips :
    blockDecrypt .aes128 #v[0x00, 0x01, 0x02, 0x03, 0x04, 0x05, 0x06, 0x07, 0x08, 0x09, 0x0A, 0x0B, 0x0C, 0x0D, 0x0E, 0x0F]
      #v[0x69, 0xC4, 0xE0, 0xD8, 0x6A, 0x7B, 0x04, 0x30, 0xD8, 0xCD, 0xB7, 0x80, 0x70, 0xB4, 0xC5, 0x5A] =
    #v[0x00, 0x11, 0x22, 0x33, 0x44, 0x55, 0x66, 0x77, 0x88, 0x99, 0xAA, 0xBB, 0xCC, 0xDD, 0xEE, 0xFF] := by decide +kernel

/-- Settles O21: the nine rounds in between are one fold; the example is evaluated. -/
theorem blockDecryptSequence : Obligations.BlockDecryptSequence := by
  refine ⟨fun key c rk s hrk whitened rounds => ?_, blockDecrypt_fips⟩
  have between : [9, 8, 7, 6, 5, 4, 3, 2, 1].foldl (invRound (keySchedule key)) (s 10) = s 1 :=
    foldl_invRound (n := 9) fun r h1 h9 => by rw [rounds r h1 h9, hrk r (by omega)]; rfl
  rw [whitened, hrk 10 (by omega)] at between
  rw [hrk 0 (by omega), ← between]
  rfl

end Sys2Proof.Machine
end

section
/-! SUPPORT. ECB decryption and padding removal as functions of bytes (O16, O17), and what a command with good windows answers, once for
all commands, with ECB_DECRYPT and UNPAD (O9, O10). -/

namespace Sys2Proof.Machine

variable {s : State} {i : Instr}

/-! ### ECB decryption (41_block_cipher.md R128) -/

theorem blockOf_take (c : List Byte) : blockOf (c.take 16) = blockOf c := by
  ext i
  simp [blockOf, List.getD_eq_getElem?_getD]

/-- Block `b` of the output is block `b` of the input, decrypted. -/
theorem ecbBlocks_block (cipher : Cipher) (key : Block) {n b : Nat} (h : b < n) (c : List Byte) :
    ((ecbBlocks cipher key n c).drop (16 * b)).take 16 = (blockDecrypt cipher key (blockOf (c.drop (16 * b)))).toList := by
  induction n generalizing b c with
  | zero => omega
  | succ n ih =>
    rw [ecbBlocks]
    cases b with
    | zero => simp
    | succ b =>
      have later : ((blockDecrypt cipher key (blockOf c)).toList ++ ecbBlocks cipher key n (c.drop 16)).drop (16 * (b + 1)) =
          (ecbBlocks cipher key n (c.drop 16)).drop (16 * b) := by
        rw [show 16 * (b + 1) = (blockDecrypt cipher key (blockOf c)).toList.length + 16 * b by simp; omega,
          List.drop_length_add_append]
      rw [later, ih (by omega), List.drop_drop, show 16 + 16 * b = 16 * (b + 1) by omega]

theorem length_ecbDec {c : List Byte} (h : c.length % 16 = 0) (cipher : Cipher) (key : Block) :
    (ecbDec cipher key c).length = c.length := by
  rw [ecbDec, length_ecbBlocks]
  omega

/-- A command that decrypts is refused a LEN that is no multiple of 16 (60_exceptions.md R201). -/
theorem exec_partial_block (hi : wantsBlocks i = true) (h : s.len.toNat % 16 ≠ 0) : exec i s = .next (s.raise .cryptoLength) := by
  have notNop : i ≠ .nop := by rintro rfl; cases hi
  have notStream : i ≠ .streamDecipher := by rintro rfl; cases hi
  rw [exec_eq_runCommand notNop]
  exact runCommand_precheck_error (by simp [precheck, notNop, notStream, hi, h])

/-- Settles O16: the blocks of `ecbBlocks`, and `Precheck`. -/
theorem ecbBlocksIndependent : Obligations.EcbBlocksIndependent := by
  refine ⟨fun cipher key c h => ⟨length_ecbDec h cipher key, fun b hb => ?_⟩, fun _ _ => rfl,
    fun i s hi h => exec_partial_block ((wantsBlocks_iff i).2 hi) h⟩
  rw [blockOf_take]
  exact ecbBlocks_block cipher key hb c

/-! ### Padding removal (41_block_cipher.md R129) -/

theorem removePadding_error {p : List Byte} {n : Byte} (hp : p.getLast? = some n) (h : n = 0 ∨ p.length < n.toNat) :
    removePadding p = .error (.padding (n.setWidth 32)) := by
  rw [removePadding, hp]
  exact if_pos h

theorem removePadding_ok {p : List Byte} {n : Byte} (hp : p.getLast? = some n) (h0 : n ≠ 0) (h : n.toNat ≤ p.length) :
    removePadding p = .ok (p.take (p.length - n.toNat)) := by
  rw [removePadding, hp]
  exact if_neg (not_or.2 ⟨h0, Nat.not_lt.2 h⟩)

/-- Settles O17: the last byte of `p ++ [n]` is `n`, and what is left when it goes is of `p`. -/
theorem removePaddingChecksFinalByteOnly : Obligations.RemovePaddingChecksFinalByteOnly := by
  refine ⟨rfl, fun p n => ?_⟩
  have last : (p ++ [n]).getLast? = some n := List.getLast?_concat
  have len : (p ++ [n]).length = p.length + 1 := List.length_append
  refine ⟨fun h => removePadding_error last (len ▸ h), fun h0 h => ?_⟩
  have pad : 0 < n.toNat := Nat.pos_of_ne_zero fun hz => h0 (BitVec.eq_of_toNat_eq hz)
  rw [removePadding_ok last h0 (len ▸ h), len, List.take_append_of_le_length (by omega)]

/-! ### Commands over good windows (40_control.md R102, R107) -/

/-- A block write at DST over flushed memory, and the completion fields, are a completion with the bytes written. -/
theorem completedWith_dmaWrite {out : List Byte} (hm : ∀ k, k < out.length → (s.mark (s.dst.toNat + k)).unflushed = false) :
    CompletedWith s ((s.dmaWrite s.dst.toNat out).complete out.length) out :=
  ⟨by rw [dmaWrite_eq]; rfl, dmaWrite_read s _ out hm, dmaWrite_marksWritten s _ out⟩

section GoodWindows

variable (hi : i ≠ .nop) (hargs : ¬ OperandsRefused i s) (hw : s.WindowsGood (inSize i s) (outSize i s))
  (hm : s.Maintained s.len.toNat (outSize i s))

include hi hargs hw hm

/-- A command over good windows whose body has a result completes with it. -/
theorem exec_completes {out : List Byte} (hb : bodyOf i s s.memInput = .ok out) :
    ∃ t, exec i s = .next t ∧ CompletedWith (effectOf i s s.memInput) t out ∧ t.outLen.toNat = out.length := by
  obtain ⟨checked, plain⟩ := WindowsGood.passes hw
  have fits : out.length ≤ outSize i s := bodyOf_length (length_memInput s) hb
  have dst : (effectOf i s s.memInput).dst = s.dst := by rw [effectOf_eq]
  have flushed : ∀ k, k < out.length → ((effectOf i s s.memInput).mark (s.dst.toNat + k)).unflushed = false := fun k hk => by
    rw [effectOf_eq]
    exact hm.2 k (hk.trans_le fits)
  rw [← input_eq_memInput hm] at hb dst flushed ⊢
  refine ⟨_, ?_, dst ▸ completedWith_dmaWrite (dst ▸ flushed), toNat_ofNat_length fits⟩
  rw [exec_eq_runCommand hi, runCommand_ok ((precheck_none_iff hi).2 ⟨hargs, checked⟩) plain hb]

/-- A command over good windows whose body fails ends with that error. -/
theorem exec_fails {e : CmdError} (hb : bodyOf i s s.memInput = .error e) : exec i s = .next (failedWith s e.code e.info) := by
  obtain ⟨checked, plain⟩ := WindowsGood.passes hw
  rw [← input_eq_memInput hm] at hb
  rw [exec_eq_runCommand hi]
  exact runCommand_body_error ((precheck_none_iff hi).2 ⟨hargs, checked⟩) plain hb

end GoodWindows

/-! ### ECB_DECRYPT (41_block_cipher.md R130) and UNPAD (R131) -/

/-- ECB_DECRYPT under the key that KEYSEL names (30_encoding.md R73). -/
theorem exec_ecbDecrypt {key : Block}
    (hi : i = .ecbDecryptCore ∧ key = s.chip.coreKey ∨ i = .ecbDecryptMeta ∧ key = s.chip.metaKey) (hl : s.len.toNat % 16 = 0)
    (hw : s.WindowsGood s.len.toNat s.len.toNat) (hm : s.Maintained s.len.toNat s.len.toNat) :
    ∃ t, exec i s = .next t ∧ CompletedWith s t (ecbDec s.chip.cipher key s.memInput) ∧ t.outLen = s.len := by
  have completes : ∃ t, exec i s = .next t ∧ CompletedWith s t (ecbDec s.chip.cipher key s.memInput) ∧
      t.outLen.toNat = (ecbDec s.chip.cipher key s.memInput).length := by
    rcases hi with ⟨rfl, rfl⟩ | ⟨rfl, rfl⟩
    · exact exec_completes (by decide) (by simp [OperandsRefused, hl]) hw hm rfl
    · exact exec_completes (by decide) (by simp [OperandsRefused, hl]) hw hm rfl
  obtain ⟨t, ht, hc, hlen⟩ := completes
  rw [length_ecbDec (by rwa [length_memInput]), length_memInput] at hlen
  exact ⟨t, ht, hc, BitVec.eq_of_toNat_eq hlen⟩

/-- Settles O9: one lemma for both forms of the key. -/
theorem ecbDecryptResult : Obligations.EcbDecryptResult := fun _ hl hw hm =>
  ⟨exec_ecbDecrypt (.inl ⟨rfl, rfl⟩) hl hw hm, exec_ecbDecrypt (.inr ⟨rfl, rfl⟩) hl hw hm⟩

/-- Settles O10: the body is `removePadding`, whose result is written and whose errors are raised. -/
theorem unpadResult : Obligations.UnpadResult := by
  intro s hw hm
  have accepted : ¬ OperandsRefused .unpad s := by simp [OperandsRefused]
  have fails {info : Word} (h : removePadding s.memInput = .error (.padding info)) : exec .unpad s = .next (failedWith s 8 info) :=
    exec_fails (i := .unpad) (e := .padding info) (by decide) accepted hw hm h
  refine ⟨fun h0 => fails ?_, fun n hn hbad => fails (removePadding_error hn (by rwa [length_memInput])), fun n hn h0 hle => ?_⟩
  · have empty : s.memInput = [] := List.eq_nil_of_length_eq_zero (by simp [h0])
    rw [empty]
    rfl
  · have unpadded := removePadding_ok hn h0 (by rwa [length_memInput])
    rw [length_memInput] at unpadded
    obtain ⟨t, ht, hc, hlen⟩ := exec_completes (i := .unpad) (by decide) accepted hw hm unpadded
    refine ⟨t, ht, hc, ?_⟩
    rw [hlen, List.length_take, length_memInput, Nat.min_eq_left (Nat.sub_le _ _)]

end Sys2Proof.Machine
end

section
/-! SUPPORT. The loop of BuildKeyBox (42_keybox.md R150), iteration by iteration (O22), what it reads of its key material (O24), and
KEYBOX_BUILD, which runs it (R152; O11). -/

namespace Sys2Proof.Machine

/-! ### The loop before each iteration -/

/-- What BuildKeyBox carries before iteration `i` (42_keybox.md R150). -/
def boxLoop (km : List Byte) (i : Nat) : BoxLoop :=
  (List.range i).foldl (buildStep km) { box := identityBox, last := 0, offset := 0 }

theorem buildKeyBox_eq_boxLoop (km : List Byte) : buildKeyBox km = (boxLoop km 256).box := rfl

theorem boxLoop_succ (km : List Byte) (i : Nat) : boxLoop km (i + 1) = buildStep km (boxLoop km i) i := by
  simp [boxLoop, List.range_succ]

/-- Iteration `i` reads key byte `i mod len(KM)`. -/
theorem boxLoop_offset (km : List Byte) (i : Nat) : (boxLoop km i).offset = i % km.length := by
  induction i with
  | zero => exact (Nat.zero_mod _).symm
  | succ i ih => rw [boxLoop_succ, buildStep, ih, Nat.mod_add_mod]

theorem boxLoop_last_succ (km : List Byte) (i : Nat) : (boxLoop km (i + 1)).last =
    boxGet (boxLoop km i).box (BitVec.ofNat 8 i) + (boxLoop km i).last + km.getD (i % km.length) 0 := by
  rw [boxLoop_succ, buildStep, boxLoop_offset]

/-- Iteration `i` swaps the entries `i` and `c`, the accumulator that it leaves. -/
theorem boxGet_boxLoop_succ (km : List Byte) (i : Nat) : boxGet (boxLoop km (i + 1)).box =
    boxGet (boxLoop km i).box ∘ Equiv.swap (BitVec.ofNat 8 i) (boxLoop km (i + 1)).last := by
  rw [boxLoop_succ]
  exact boxGet_swap _ _ _

/-- Settles O23: each iteration keeps the box a permutation, because it swaps two entries. -/
theorem keyBoxIsAlwaysPermutation : Obligations.KeyBoxIsAlwaysPermutation := buildKeyBox_isPermutation

/-! ### The loop over numbers -/

/-- Entry `x` of a key box, as a number. -/
def boxEntry (box : KeyBox) (x : Nat) : Nat := (boxGet box (BitVec.ofNat 8 x)).toNat

theorem boxEntry_eq_getElem (box : KeyBox) {x : Nat} (hx : x < 256) : boxEntry box x = (box[x]).toNat := by
  simp [boxEntry, boxGet, Nat.mod_eq_of_lt hx]

theorem boxEntry_identityBox {x : Nat} (hx : x < 256) : boxEntry identityBox x = x := by
  simp [boxEntry, Nat.mod_eq_of_lt hx]

theorem boxLoop_last_succ_toNat (km : List Byte) (i : Nat) : (boxLoop km (i + 1)).last.toNat =
    (boxEntry (boxLoop km i).box i + (boxLoop km i).last.toNat + (km.getD (i % km.length) 0).toNat) % 256 := by
  rw [boxLoop_last_succ, BitVec.toNat_add, BitVec.toNat_add, Nat.mod_add_mod]
  rfl

theorem byte_ofNat_eq_iff {x : Nat} (hx : x < 256) (b : Byte) : BitVec.ofNat 8 x = b ↔ x = b.toNat := by
  rw [← BitVec.toNat_inj, BitVec.toNat_ofNat, Nat.mod_eq_of_lt hx]

/-- The swap of iteration `i`, entry by entry. -/
theorem boxEntry_boxLoop_succ (km : List Byte) {i x : Nat} (hi : i < 256) (hx : x < 256) : boxEntry (boxLoop km (i + 1)).box x =
    if x = (boxLoop km (i + 1)).last.toNat then boxEntry (boxLoop km i).box i
    else if x = i then boxEntry (boxLoop km i).box (boxLoop km (i + 1)).last.toNat else boxEntry (boxLoop km i).box x := by
  generalize hc : (boxLoop km (i + 1)).last = c
  rw [boxEntry, boxGet_boxLoop_succ, hc, Function.comp_apply, Equiv.swap_comm, Equiv.swap_apply_def]
  simp only [byte_ofNat_eq_iff hx, BitVec.toNat_ofNat, Nat.mod_eq_of_lt hi, boxEntry, BitVec.ofNat_toNat, BitVec.setWidth_eq]
  split_ifs <;> rfl

/-- Settles O22: before each iteration the given entries and accumulator are those of the loop. -/
theorem keyBoxRecurrence : Obligations.KeyBoxRecurrence := by
  intro km box last c _ box0 last0 index lastStep boxStep
  have agree (i : Nat) : i ≤ 256 →
      (∀ x, x < 256 → boxEntry (boxLoop km i).box x = box i x) ∧ (boxLoop km i).last.toNat = last i := by
    induction i with
    | zero => exact fun _ => ⟨fun x hx => (boxEntry_identityBox hx).trans (box0 x hx).symm, last0.symm⟩
    | succ i ih =>
      intro hi
      obtain ⟨entries, acc⟩ := ih (Nat.le_of_succ_le hi)
      have hc : (boxLoop km (i + 1)).last.toNat = c i := by
        rw [boxLoop_last_succ_toNat, entries i hi, acc, index i hi]
      have c_lt : c i < 256 := hc ▸ (boxLoop km (i + 1)).last.isLt
      refine ⟨fun x hx => ?_, hc.trans (lastStep i hi).symm⟩
      rw [boxEntry_boxLoop_succ km hi hx, hc, entries i hi, entries _ c_lt, entries x hx, boxStep i x hi hx]
  intro x hx
  rw [← boxEntry_eq_getElem _ hx, buildKeyBox_eq_boxLoop]
  exact (agree 256 le_rfl).1 x hx

/-! ### The key bytes that the loop reads -/

/-- Key materials that give each iteration the same key byte give the same key box. -/
theorem buildKeyBox_congr {km km' : List Byte}
    (h : ∀ i, i < 256 → km.getD (i % km.length) 0 = km'.getD (i % km'.length) 0) : buildKeyBox km = buildKeyBox km' := by
  have agree (i : Nat) : i ≤ 256 → (boxLoop km i).box = (boxLoop km' i).box ∧ (boxLoop km i).last = (boxLoop km' i).last := by
    induction i with
    | zero => exact fun _ => ⟨rfl, rfl⟩
    | succ i ih =>
      intro hi
      obtain ⟨hbox, hlast⟩ := ih (Nat.le_of_succ_le hi)
      simp only [boxLoop_succ, buildStep, boxLoop_offset, hbox, hlast, h i hi, and_self]
  exact (agree 256 le_rfl).1

/-- With 256 bytes or more, the key byte of iteration `i` is byte `i`, one of the first 256. -/
theorem keyByte_eq_take {km : List Byte} (hl : 256 ≤ km.length) {i : Nat} (hi : i < 256) :
    km.getD (i % km.length) 0 = (km.take 256).getD i 0 := by
  rw [Nat.mod_eq_of_lt (hi.trans_le hl), List.getD_eq_getElem?_getD, List.getD_eq_getElem?_getD, List.getElem?_take_of_lt hi]

/-- Settles O24: the two give each of the 256 iterations the same key byte. -/
theorem keyBoxReadsFirst256Bytes : Obligations.KeyBoxReadsFirst256Bytes := fun km km' hl hl' same =>
  buildKeyBox_congr fun i hi => by rw [keyByte_eq_take hl hi, keyByte_eq_take hl' hi, same]

/-! ### KEYBOX_BUILD -/

/-- Settles O11: the command passes its checks, has no output to write, and completes with its own effect. -/
theorem keyboxBuildResult : Obligations.KeyboxBuildResult := by
  intro s hlen hw hm
  obtain ⟨checked, plain⟩ := WindowsGood.passes (i := .keyboxBuild) hw
  have accepted : ¬ OperandsRefused .keyboxBuild s := by simpa [OperandsRefused] using hlen
  rw [exec_eq_runCommand (by decide), runCommand_ok ((precheck_none_iff (by decide)).2 ⟨accepted, checked⟩) plain rfl,
    input_eq_memInput hm]
  rfl

end Sys2Proof.Machine
end

section
/-! SUPPORT. What a completion leaves, and a next command that reads its output in place; META_UNMASK and META_DECRYPT over good
windows (43_metadata.md R160, R161; O12, O13), and META_DECRYPT as ECB_DECRYPT.META with UNPAD after it (R162; O34). -/

namespace Sys2Proof.Machine

variable {s t : State} {out : List Byte}

/-! ### What a completion leaves (40_control.md R107) -/

section Completed

variable (h : CompletedWith s t out)

include h

theorem CompletedWith.chip : t.chip = s.chip := (congrArg State.chip h.1 :)
theorem CompletedWith.dst : t.dst = s.dst := (congrArg State.dst h.1 :)
theorem CompletedWith.len : t.len = s.len := (congrArg State.len h.1 :)
theorem CompletedWith.err : t.err = false := (congrArg State.err h.1 :)
theorem CompletedWith.errCode : t.errCode = 0 := (congrArg State.errCode h.1 :)
theorem CompletedWith.errInfo : t.errInfo = 0 := (congrArg State.errInfo h.1 :)
theorem CompletedWith.outLen : t.outLen = BitVec.ofNat 32 out.length := (congrArg State.outLen h.1 :)

/-- The output stands at DST. -/
theorem CompletedWith.read {k : Nat} (hk : k < out.length) : t.mem.read (s.dst.toNat + k) = out.getD k 0 := by
  rw [h.2.1, if_pos (by omega), Nat.add_sub_cancel_left]

/-- The engine's writes leave flushed bytes flushed (20_memory.md R63). -/
theorem CompletedWith.unflushed (a : Nat) : (t.mark a).unflushed = (s.mark a).unflushed := by
  rw [h.2.2.2]
  split
  · exact unflushed_afterEngineWrite _
  · rfl

end Completed

/-! ### The output window as the next command's windows -/

/-- `s` with its output window also as its input window (`DST = SRC`). -/
def State.inPlace (s : State) : State := { s with src := s.dst }

/-- An output window that may be read is good for a command in place, after a completion too. -/
theorem CompletedWith.windowsGood_inPlace {n m : Nat} (h : CompletedWith s t out) (hw : s.WindowsGood n m)
    (hr : ∀ k, k < m → s.chip.admits .read (s.dst.toNat + k) = true) : t.inPlace.WindowsGood m m := by
  obtain ⟨-, range, -, -, written⟩ := hw
  simp only [State.WindowsGood, State.inPlace, h.chip, h.dst]
  exact ⟨range, range, .inr (.inr (.inl trivial)), fun k hk => ⟨hr k hk, (written k hk).2⟩, written⟩

theorem CompletedWith.maintained_inPlace {n m : Nat} (h : CompletedWith s t out) (hm : s.Maintained n m) :
    t.inPlace.Maintained m m := by
  have flushed : ∀ k, k < m → (t.mark (t.dst.toNat + k)).unflushed = false := fun k hk => by
    rw [h.unflushed, h.dst]
    exact hm.2 k hk
  exact ⟨flushed, flushed⟩

/-- Byte `k` of the input window. -/
theorem memInput_getD {k : Nat} (hk : k < s.len.toNat) : s.memInput.getD k 0 = s.mem.read (s.src.toNat + k) := by
  simp [State.memInput, hk]

/-- A command in place reads the output before it, where that output is LEN bytes long. -/
theorem CompletedWith.memInput_inPlace (h : CompletedWith s t out) (hl : out.length = s.len.toNat) : t.inPlace.memInput = out := by
  have len : t.inPlace.len = s.len := h.len
  refine List.ext_getElem (by rw [length_memInput, len, hl]) fun k hk hk' => ?_
  rw [length_memInput] at hk
  rw [← List.getD_eq_getElem _ 0, ← List.getD_eq_getElem _ 0, memInput_getD hk, ← h.read hk', ← h.dst]
  rfl

/-! ### META_UNMASK (43_metadata.md R160) -/

/-- Byte `k` of the output is byte `22 + k` of the input, XOR 0x63. -/
theorem unmasked_getD {input : List Byte} {k : Nat} (hk : 22 + k < input.length) :
    ((input.drop Config.metaSkip).map (· ^^^ Config.metaXor)).getD k 0 = input.getD (22 + k) 0 ^^^ 0x63 := by
  have hk' : k < input.length - 22 := by omega
  simp [Config.metaSkip, Config.metaXor, hk, hk']

/-- Settles O12: the command completes with its body's bytes, which are those of memory from the 23rd on. -/
theorem metaUnmaskResult : Obligations.MetaUnmaskResult := by
  intro s hw hm
  obtain ⟨t, ht, hc, hlen⟩ := exec_completes (i := .metaUnmask) (by decide) (by simp [OperandsRefused]) hw hm rfl
  have length : ((s.memInput.drop Config.metaSkip).map (· ^^^ Config.metaXor)).length = s.len.toNat - 22 := by
    simp [Config.metaSkip]
  refine ⟨t, _, ht, hc, length, hlen.trans length, fun k hk => ?_⟩
  rw [unmasked_getD (by rw [length_memInput]; omega), memInput_getD (by omega)]

/-! ### META_DECRYPT (43_metadata.md R161) -/

/-- The plaintext before its padding is removed. -/
def metaPlain (s : State) : List Byte := ecbDec s.chip.cipher s.chip.metaKey s.memInput

theorem length_metaPlain (hl : s.len.toNat % 16 = 0) : (metaPlain s).length = s.len.toNat := by
  rw [metaPlain, length_ecbDec (by rwa [length_memInput]), length_memInput]

section MetaDecrypt

variable (hl : s.len.toNat % 16 = 0) (hw : s.WindowsGood s.len.toNat s.len.toNat) (hm : s.Maintained s.len.toNat s.len.toNat)

include hl hw hm

theorem exec_metaDecrypt_fails {e : CmdError} (h : removePadding (metaPlain s) = .error e) :
    exec .metaDecrypt s = .next (failedWith s e.code e.info) :=
  exec_fails (by decide) (by simp [OperandsRefused, hl]) hw hm h

theorem exec_metaDecrypt_completes (h : removePadding (metaPlain s) = .ok out) :
    ∃ t, exec .metaDecrypt s = .next t ∧ CompletedWith s t out ∧ t.outLen.toNat = out.length :=
  exec_completes (by decide) (by simp [OperandsRefused, hl]) hw hm h

end MetaDecrypt

/-- Settles O13: the result of the command is `removePadding` of the plaintext. -/
theorem metaDecryptResult : Obligations.MetaDecryptResult := by
  rintro s p hl hw hm rfl
  have length : (metaPlain s).length = s.len.toNat := length_metaPlain hl
  refine ⟨fun h0 => ?_, fun n hn hbad => ?_, fun n hn h0 hle => ?_⟩
  · have empty : metaPlain s = [] := List.eq_nil_of_length_eq_zero (by simp [length, h0])
    exact exec_metaDecrypt_fails hl hw hm (e := .padding 0xFFFFFFFF) (by rw [empty]; rfl)
  · exact exec_metaDecrypt_fails hl hw hm (removePadding_error hn (length.symm ▸ hbad))
  · have unpadded : removePadding (metaPlain s) = .ok ((metaPlain s).take (s.len.toNat - n.toNat)) :=
      length ▸ removePadding_ok hn h0 (length.symm ▸ hle)
    obtain ⟨t, ht, hc, hlen⟩ := exec_metaDecrypt_completes hl hw hm unpadded
    exact ⟨t, ht, hc, by rw [hlen, List.length_take, length, Nat.min_eq_left (Nat.sub_le _ _)]⟩

/-! ### META_DECRYPT and ECB_DECRYPT.META with UNPAD (43_metadata.md R162) -/

/-- Settles O34: UNPAD reads the plaintext back in place, so both ways end with `removePadding` of it. -/
theorem metaDecryptIsDecryptThenUnpad : Obligations.MetaDecryptIsDecryptThenUnpad := by
  intro s hl hw hm hr
  obtain ⟨u, hu, hc, -⟩ := exec_ecbDecrypt (.inr ⟨rfl, rfl⟩) hl hw hm
  have readBack : u.inPlace.memInput = metaPlain s := hc.memInput_inPlace (length_metaPlain hl)
  have len : u.inPlace.len = s.len := hc.len
  have dst : u.inPlace.dst = s.dst := hc.dst
  have good : u.inPlace.WindowsGood u.inPlace.len.toNat u.inPlace.len.toNat := len ▸ hc.windowsGood_inPlace hw hr
  have flushed : u.inPlace.Maintained u.inPlace.len.toNat u.inPlace.len.toNat := len ▸ hc.maintained_inPlace hm
  have accepted : ¬ OperandsRefused .unpad u.inPlace := by simp [OperandsRefused]
  have unpad : exec .unpad { u with src := s.dst } = exec .unpad u.inPlace := by rw [State.inPlace, hc.dst]
  cases hp : removePadding (metaPlain s) with
  | error e =>
    have ht := exec_metaDecrypt_fails hl hw hm hp
    have hv := exec_fails (i := .unpad) (by decide) accepted good flushed (readBack ▸ hp)
    exact ⟨_, u, _, ht, hu, unpad.trans hv, rfl, rfl, rfl, rfl, fun k hk => absurd hk (Nat.not_lt_zero k)⟩
  | ok out =>
    obtain ⟨t, ht, ct, outLen⟩ := exec_metaDecrypt_completes hl hw hm hp
    obtain ⟨v, hv, cv, -⟩ := exec_completes (i := .unpad) (by decide) accepted good flushed (readBack ▸ hp)
    refine ⟨t, u, v, ht, hu, unpad.trans hv, cv.err.trans ct.err.symm, cv.errCode.trans ct.errCode.symm, cv.errInfo.trans ct.errInfo.symm,
      cv.outLen.trans ct.outLen.symm, fun k hk => ?_⟩
    rw [outLen] at hk
    rw [ct.read hk, ← dst]
    exact cv.read hk

end Sys2Proof.Machine
end

section
/-! SUPPORT. UNWRAP_KEY over good windows (44_key_unwrap.md R170; O14). -/

namespace Sys2Proof.Machine

variable {s : State}

/-- The plaintext before its padding is removed: every byte XOR 0x64, then the decryption under CORE_KEY (90_conflicts.md C2). -/
def unwrapPlain (s : State) : List Byte := ecbDec s.chip.cipher s.chip.coreKey (s.memInput.map (· ^^^ 0x64))

theorem length_unwrapPlain (hl : s.len.toNat % 16 = 0) : (unwrapPlain s).length = s.len.toNat := by
  have length : (s.memInput.map (· ^^^ 0x64)).length = s.len.toNat := by rw [List.length_map, length_memInput]
  rw [unwrapPlain, length_ecbDec (length.symm ▸ hl), length]

/-- The body is padding removal, after which the first 17 bytes are dropped. -/
theorem bodyUnwrapKey_eq_map (s : State) : bodyUnwrapKey s s.memInput = (removePadding (unwrapPlain s)).map (List.drop 17) := by
  rw [bodyUnwrapKey, Config.keyXor, ← unwrapPlain]
  cases removePadding (unwrapPlain s) with
  | ok q => rfl
  | error e => rfl

/-- Settles O14: an error of `removePadding` of the plaintext is the command's, and of its result the first 17 bytes are dropped. -/
theorem unwrapKeyResult : Obligations.UnwrapKeyResult := by
  rintro s p hl hw hm rfl
  have length : (unwrapPlain s).length = s.len.toNat := length_unwrapPlain hl
  have accepted : ¬ OperandsRefused .unwrapKey s := by simp [OperandsRefused, hl]
  have fails {info : Word} (h : removePadding (unwrapPlain s) = .error (.padding info)) :
      exec .unwrapKey s = .next (failedWith s 8 info) :=
    exec_fails (i := .unwrapKey) (e := .padding info) (by decide) accepted hw hm (by rw [bodyOf, bodyUnwrapKey_eq_map, h]; rfl)
  refine ⟨fun h0 => fails ?_, fun n hn hbad => fails (removePadding_error hn (length.symm ▸ hbad)), fun n hn h0 hle => ?_⟩
  · have empty : unwrapPlain s = [] := List.eq_nil_of_length_eq_zero (by simp [length, h0])
    rw [empty]
    rfl
  · have unpadded : removePadding (unwrapPlain s) = .ok ((unwrapPlain s).take (s.len.toNat - n.toNat)) :=
      length ▸ removePadding_ok hn h0 (length.symm ▸ hle)
    have body : bodyUnwrapKey s s.memInput = .ok (((unwrapPlain s).take (s.len.toNat - n.toNat)).drop 17) := by
      rw [bodyUnwrapKey_eq_map, unpadded]
      rfl
    obtain ⟨t, ht, hc, hlen⟩ := exec_completes (i := .unwrapKey) (by decide) accepted hw hm body
    refine ⟨t, ht, hc, ?_⟩
    rw [hlen, List.length_drop, List.length_take, length, Nat.min_eq_left (Nat.sub_le _ _)]

end Sys2Proof.Machine
end

section
/-! SUPPORT. The keystream (45_stream_decipher.md R180; O25), STREAM_DECIPHER over good windows (R181; O15), and its two laws: chunk
boundaries do not matter (R182; O32), and the second run undoes the first (R183; O33). -/

namespace Sys2Proof.Machine

variable {s t u : State}

/-! ### The keystream (45_stream_decipher.md R180) -/

theorem boxGet_eq_getElem (box : KeyBox) {b : Byte} {x : Nat} (h : b.toNat = x) : boxGet box b = box[x]'(h ▸ b.isLt) := by
  subst h
  rfl

/-- The keystream depends on the position modulo 256 only. -/
theorem keystream_congr (box : KeyBox) {i j : Nat} (h : i % 256 = j % 256) : keystream box i = keystream box j := by
  have same : BitVec.ofNat 8 i = BitVec.ofNat 8 j := BitVec.eq_of_toNat_eq h
  rw [keystream, keystream, same]

/-- Settles O25: the bytes that index the box are the numbers modulo 256, and 256 divides `2^32`. -/
theorem keystreamByPosition : Obligations.KeystreamByPosition := by
  intro box i
  refine ⟨fun a b ha hb => ?_, keystream_congr box (by omega), keystream_congr box (by omega), keystream_congr box (by omega)⟩
  have entryA : boxGet box (BitVec.ofNat 8 i) = a := ha ▸ boxGet_eq_getElem box rfl
  have entryB : boxGet box (a + BitVec.ofNat 8 i) = b := hb ▸ boxGet_eq_getElem box (BitVec.toNat_add ..)
  rw [keystream, entryA, entryB]
  exact boxGet_eq_getElem box (BitVec.toNat_add ..)

/-! ### STREAM_DECIPHER over good windows (45_stream_decipher.md R181) -/

/-- Byte `k` of the output is byte `k` of the input, XOR the keystream at its position. -/
theorem decipher_getD (box : KeyBox) (p : Word) {input : List Byte} {k : Nat} (hk : k < input.length) :
    (decipher box p input).getD k 0 = input.getD k 0 ^^^ keystream box ((p.toNat + k) % 2 ^ 32) := by
  induction input generalizing p k with
  | nil => cases hk
  | cons x rest ih =>
    cases k with
    | zero => simp [decipher, Nat.mod_eq_of_lt p.isLt]
    | succ k =>
      have position : ((p + 1).toNat + k) % 2 ^ 32 = (p.toNat + (k + 1)) % 2 ^ 32 := by
        rw [BitVec.toNat_add, Nat.mod_add_mod, Nat.add_assoc, Nat.add_comm k]
        rfl
      rw [decipher, List.getD_cons_succ, List.getD_cons_succ, ih (p + 1) (Nat.lt_of_succ_lt_succ hk), position]

/-- `s` with STREAM_POS advanced by LEN. -/
def State.advanced (s : State) : State := { s with streamPos := BitVec.ofNat 32 ((s.streamPos.toNat + s.len.toNat) % 2 ^ 32) }

theorem effectStreamDecipher_eq_advanced (s : State) : effectStreamDecipher s s.memInput = s.advanced := by
  have position : s.streamPos + BitVec.ofNat 32 s.len.toNat = BitVec.ofNat 32 ((s.streamPos.toNat + s.len.toNat) % 2 ^ 32) := by
    refine BitVec.eq_of_toNat_eq ?_
    simp
  rw [effectStreamDecipher, length_memInput, position, State.advanced]

/-- STREAM_DECIPHER with a valid key box over good windows completes with the deciphered input. -/
theorem exec_streamDecipher (hk : s.kbValid = true) (hw : s.WindowsGood s.len.toNat s.len.toNat)
    (hm : s.Maintained s.len.toNat s.len.toNat) :
    ∃ t, exec .streamDecipher s = .next t ∧ CompletedWith s.advanced t (decipher s.keybox s.streamPos s.memInput) := by
  obtain ⟨t, ht, hc, -⟩ := exec_completes (i := .streamDecipher) (by decide) (by simp [OperandsRefused, hk]) hw hm rfl
  exact ⟨t, ht, effectStreamDecipher_eq_advanced s ▸ hc⟩

/-- Settles O15: the command completes with its body's bytes, each of which `decipher_getD` gives. -/
theorem streamDecipherResult : Obligations.StreamDecipherResult := by
  intro s hk hw hm
  obtain ⟨t, ht, hc⟩ := exec_streamDecipher hk hw hm
  have length : (decipher s.keybox s.streamPos s.memInput).length = s.len.toNat := by simp
  refine ⟨t, _, ht, hc, length, by simp [hc.outLen], fun k hk => ?_⟩
  rw [decipher_getD _ _ (by rwa [length_memInput]), memInput_getD hk]

/-! ### The conditions of the next command -/

/-- Good windows are those of the chip, SRC and DST. -/
theorem State.WindowsGood.congr {n m : Nat} (h : s.WindowsGood n m) (chip : t.chip = s.chip) (src : t.src = s.src) (dst : t.dst = s.dst) :
    t.WindowsGood n m := by
  simpa only [State.WindowsGood, chip, src, dst] using h

/-- Maintained windows are those of SRC, DST and the bytes not written back. -/
theorem State.Maintained.congr {n m : Nat} (h : s.Maintained n m) (unflushed : ∀ a, (t.mark a).unflushed = (s.mark a).unflushed)
    (src : t.src = s.src) (dst : t.dst = s.dst) : t.Maintained n m := by
  simpa only [State.Maintained, unflushed, src, dst] using h

/-! ### What deciphering a number of bytes leaves, in one command or in several -/

theorem CompletedWith.src {out : List Byte} (h : CompletedWith s t out) : t.src = s.src := (congrArg State.src h.1 :)
theorem CompletedWith.kbValid {out : List Byte} (h : CompletedWith s t out) : t.kbValid = s.kbValid := (congrArg State.kbValid h.1 :)
theorem CompletedWith.keybox {out : List Byte} (h : CompletedWith s t out) : t.keybox = s.keybox := (congrArg State.keybox h.1 :)
theorem CompletedWith.streamPos {out : List Byte} (h : CompletedWith s t out) : t.streamPos = s.streamPos :=
  (congrArg State.streamPos h.1 :)

/-- From `s` to `t` the `n` bytes at SRC were deciphered to DST. -/
structure Deciphered (s t : State) (n : Nat) : Prop where
  keybox : t.keybox = s.keybox
  streamPos : t.streamPos.toNat = (s.streamPos.toNat + n) % 2 ^ 32
  output : ∀ k, k < n →
    t.mem.read (s.dst.toNat + k) = s.mem.read (s.src.toNat + k) ^^^ keystream s.keybox ((s.streamPos.toNat + k) % 2 ^ 32)
  frame : ∀ a, a < s.dst.toNat ∨ s.dst.toNat + n ≤ a → t.mem.read a = s.mem.read a

/-- A completed STREAM_DECIPHER deciphered LEN bytes. -/
theorem CompletedWith.deciphered (h : CompletedWith s.advanced t (decipher s.keybox s.streamPos s.memInput)) :
    Deciphered s t s.len.toNat where
  keybox := h.keybox
  streamPos := by
    rw [h.streamPos, State.advanced, BitVec.toNat_ofNat, Nat.mod_mod]
  output k hk := by
    rw [← memInput_getD hk, ← decipher_getD _ _ (by rwa [length_memInput])]
    exact h.read (by rwa [length_decipher, length_memInput])
  frame a ha := by
    have outside : ¬ (s.dst.toNat ≤ a ∧ a < s.dst.toNat + s.len.toNat) := by omega
    obtain ⟨-, written, -⟩ := h
    rw [written a, length_decipher, length_memInput]
    exact if_neg outside

/-- `s` with LEN set for a chunk of `n` bytes. -/
def State.chunk (s : State) (n : Nat) : State := { s with len := BitVec.ofNat 32 n }

/-- LEN itself is no part of what was deciphered. -/
theorem Deciphered.of_chunk {n m : Nat} (h : Deciphered (s.chunk n) t m) : Deciphered s t m :=
  ⟨h.keybox, h.streamPos, h.output, h.frame⟩

/-- Memory after deciphering is fixed by the number of bytes. -/
theorem Deciphered.read_unique {n : Nat} (ht : Deciphered s t n) (hu : Deciphered s u n) (a : Nat) : u.mem.read a = t.mem.read a := by
  by_cases ha : a < s.dst.toNat ∨ s.dst.toNat + n ≤ a
  · rw [ht.frame a ha, hu.frame a ha]
  · obtain ⟨k, rfl⟩ : ∃ k, a = s.dst.toNat + k := ⟨a - s.dst.toNat, by omega⟩
    rw [ht.output k (by omega), hu.output k (by omega)]

/-! ### Chunks (45_stream_decipher.md R182) -/

/-- `s` with SRC and DST moved on past a chunk of `n` bytes. -/
def State.movedOn (s : State) (n : Nat) : State := { s with src := s.src + BitVec.ofNat 32 n, dst := s.dst + BitVec.ofNat 32 n }

theorem decipherChunks_cons {n : Nat} (h : exec .streamDecipher (s.chunk n) = .next t) (rest : List Nat) :
    decipherChunks (n :: rest) s = decipherChunks rest (t.movedOn n) := by
  rw [decipherChunks, ← State.chunk, h]
  rfl

/-- An address moved on within its window is the sum, where bytes are left to do. -/
theorem toNat_movedOn {x : Word} {n m : Nat} (h : x.toNat + (n + m) ≤ 2 ^ 32) :
    m = 0 ∨ (x + BitVec.ofNat 32 n).toNat = x.toNat + n := by
  by_cases hm : m = 0
  · exact .inl hm
  · rw [BitVec.toNat_add, BitVec.toNat_ofNat, Nat.add_mod_mod, Nat.mod_eq_of_lt (by omega)]
    exact .inr rfl

/-- Good windows are good for their first `n` bytes. -/
theorem State.WindowsGood.first {n m : Nat} (h : s.WindowsGood (n + m) (n + m)) : s.WindowsGood n n := by
  obtain ⟨hs, hd, apart, readable, writable⟩ := h
  refine ⟨by omega, by omega, ?_, fun k hk => readable k (by omega), fun k hk => writable k (by omega)⟩
  rcases apart with h | h | h | h | h
  · omega
  · omega
  · exact .inr (.inr (.inl h))
  · omega
  · omega

theorem State.Maintained.first {n m : Nat} (h : s.Maintained (n + m) (n + m)) : s.Maintained n n :=
  ⟨fun k hk => h.1 k (by omega), fun k hk => h.2 k (by omega)⟩

theorem State.WindowsGood.src_movedOn {n m : Nat} (h : s.WindowsGood (n + m) (n + m)) :
    m = 0 ∨ (s.movedOn n).src.toNat = s.src.toNat + n := toNat_movedOn h.1

theorem State.WindowsGood.dst_movedOn {n m : Nat} (h : s.WindowsGood (n + m) (n + m)) :
    m = 0 ∨ (s.movedOn n).dst.toNat = s.dst.toNat + n := toNat_movedOn h.2.1

/-- Good windows moved on past their first `n` bytes are good for the rest. -/
theorem State.WindowsGood.movedOn {n m : Nat} (h : s.WindowsGood (n + m) (n + m)) : (s.movedOn n).WindowsGood m m := by
  have src := h.src_movedOn
  have dst := h.dst_movedOn
  have srcLt := (s.movedOn n).src.isLt
  have dstLt := (s.movedOn n).dst.isLt
  obtain ⟨hs, hd, apart, readable, writable⟩ := h
  refine ⟨by omega, by omega, ?_, fun k hk => ?_, fun k hk => ?_⟩
  · rcases apart with h | h | h | h | h
    · omega
    · omega
    · exact .inr (.inr (.inl (by simp only [State.movedOn, h])))
    · omega
    · omega
  · rw [src.resolve_left (by omega), Nat.add_assoc]
    exact readable (n + k) (by omega)
  · rw [dst.resolve_left (by omega), Nat.add_assoc]
    exact writable (n + k) (by omega)

theorem State.Maintained.movedOn {n m : Nat} (hw : s.WindowsGood (n + m) (n + m)) (h : s.Maintained (n + m) (n + m)) :
    (s.movedOn n).Maintained m m := by
  refine ⟨fun k hk => ?_, fun k hk => ?_⟩
  · rw [hw.src_movedOn.resolve_left (by omega), Nat.add_assoc]
    exact h.1 (n + k) (by omega)
  · rw [hw.dst_movedOn.resolve_left (by omega), Nat.add_assoc]
    exact h.2 (n + k) (by omega)

/-- The bytes of a window that are left after its first `n` are not written with those. -/
theorem State.WindowsGood.rest_unwritten {n m j : Nat} (h : s.WindowsGood (n + m) (n + m)) (hj : j < m) :
    s.src.toNat + (n + j) < s.dst.toNat ∨ s.dst.toNat + n ≤ s.src.toNat + (n + j) := by
  obtain ⟨-, -, apart, -, -⟩ := h
  rcases apart with h | h | h | h | h
  · omega
  · omega
  · rw [h]; omega
  · omega
  · omega

/-- Deciphering `n` bytes and then the next `m` is deciphering `n + m`. -/
theorem Deciphered.trans {n m : Nat} (hw : s.WindowsGood (n + m) (n + m)) (src : t.src = s.src) (dst : t.dst = s.dst)
    (ht : Deciphered s t n) (hu : Deciphered (t.movedOn n) u m) : Deciphered s u (n + m) := by
  have box : (t.movedOn n).keybox = s.keybox := ht.keybox
  have pos : (t.movedOn n).streamPos.toNat = (s.streamPos.toNat + n) % 2 ^ 32 := ht.streamPos
  have srcOn : m = 0 ∨ (t.movedOn n).src.toNat = s.src.toNat + n := by rw [State.movedOn, src]; exact hw.src_movedOn
  have dstOn : m = 0 ∨ (t.movedOn n).dst.toNat = s.dst.toNat + n := by rw [State.movedOn, dst]; exact hw.dst_movedOn
  have frame (a : Nat) (ha : a < s.dst.toNat + n ∨ s.dst.toNat + (n + m) ≤ a) : u.mem.read a = t.mem.read a :=
    hu.frame a (by omega)
  refine ⟨hu.keybox.trans box, ?_, fun k hk => ?_, fun a ha => ?_⟩
  · rw [hu.streamPos, pos, Nat.mod_add_mod, Nat.add_assoc]
  · by_cases hkn : k < n
    · rw [frame _ (by omega), ht.output k hkn]
    · obtain ⟨j, rfl⟩ : ∃ j, k = n + j := ⟨k - n, by omega⟩
      have hj : j < m := by omega
      have second := hu.output j hj
      rw [dstOn.resolve_left (by omega), srcOn.resolve_left (by omega), box, pos, Nat.mod_add_mod, Nat.add_assoc, Nat.add_assoc,
        Nat.add_assoc] at second
      rw [second, State.movedOn, ht.frame _ (hw.rest_unwritten hj)]
  · rw [frame a (by omega), ht.frame a (by omega)]

/-- Every chunk completes, and together they decipher the sum of their lengths. -/
theorem decipherChunks_deciphered {ns : List Nat} (fits : ns.sum < 2 ^ 32) (hk : s.kbValid = true)
    (hw : s.WindowsGood ns.sum ns.sum) (hm : s.Maintained ns.sum ns.sum) :
    ∃ u, decipherChunks ns s = .next u ∧ Deciphered s u ns.sum := by
  induction ns generalizing s with
  | nil =>
    exact ⟨s, rfl, rfl, (Nat.mod_eq_of_lt s.streamPos.isLt).symm, fun k hk => absurd hk (Nat.not_lt_zero k), fun _ _ => rfl⟩
  | cons n rest ih =>
    rw [List.sum_cons] at fits hw hm ⊢
    have len : (s.chunk n).len.toNat = n := Nat.mod_eq_of_lt (by omega)
    have chunkGood : (s.chunk n).WindowsGood n n := hw.first
    have chunkMaintained : (s.chunk n).Maintained n n := hm.first
    obtain ⟨t, ht, hc⟩ := exec_streamDecipher (s := s.chunk n) hk (len.symm ▸ chunkGood) (len.symm ▸ chunkMaintained)
    have first : Deciphered s t n := (len ▸ hc.deciphered).of_chunk
    have good : t.WindowsGood (n + rest.sum) (n + rest.sum) := hw.congr hc.chip hc.src hc.dst
    have maintained : t.Maintained (n + rest.sum) (n + rest.sum) := hm.congr hc.unflushed hc.src hc.dst
    obtain ⟨u, hu, hrest⟩ := ih (s := t.movedOn n) (by omega) (hc.kbValid.trans hk) good.movedOn (maintained.movedOn good)
    exact ⟨u, (decipherChunks_cons ht rest).trans hu, first.trans hw hc.src hc.dst hrest⟩

/-- Settles O32: the one command and the chunks both decipher LEN bytes. -/
theorem chunkBoundariesDoNotMatter : Obligations.ChunkBoundariesDoNotMatter := by
  intro s ns hk hsum hw hm
  obtain ⟨t, ht, hc⟩ := exec_streamDecipher hk hw hm
  obtain ⟨u, hu, chunks⟩ := decipherChunks_deciphered (hsum ▸ s.len.isLt) hk (hsum ▸ hw) (hsum ▸ hm)
  rw [hsum] at chunks
  have whole := hc.deciphered
  exact ⟨t, u, ht, hu, whole.read_unique chunks, BitVec.eq_of_toNat_eq (chunks.streamPos.trans whole.streamPos.symm), chunks.keybox⟩

/-! ### Deciphering twice (45_stream_decipher.md R183) -/

/-- `s` with the output window of a command as the input window of the next, at the STREAM_POS before it. -/
def State.again (t s : State) (d : Word) : State := { t with src := s.dst, dst := d, streamPos := s.streamPos }

/-- Settles O33: the two runs XOR each byte with the same keystream byte, which cancels. -/
theorem decipherTwiceRestores : Obligations.DecipherTwiceRestores := by
  intro s d hk hw hm hw' hm'
  obtain ⟨t, ht, hc⟩ := exec_streamDecipher hk hw hm
  have len : (t.again s d).len = s.len := hc.len
  have good : (t.again s d).WindowsGood s.len.toNat s.len.toNat := hw'.congr hc.chip rfl rfl
  have maintained : (t.again s d).Maintained s.len.toNat s.len.toNat := hm'.congr hc.unflushed rfl rfl
  obtain ⟨u, hu, hc'⟩ := exec_streamDecipher (s := t.again s d) (hc.kbValid.trans hk) (len ▸ good) (len ▸ maintained)
  have once : Deciphered s t s.len.toNat := hc.deciphered
  have twice : Deciphered (t.again s d) u s.len.toNat := len ▸ hc'.deciphered
  have restored (k : Nat) (hkl : k < s.len.toNat) : u.mem.read (d.toNat + k) = s.mem.read (s.src.toNat + k) := calc
    _ = t.mem.read (s.dst.toNat + k) ^^^ keystream t.keybox ((s.streamPos.toNat + k) % 2 ^ 32) := twice.output k hkl
    _ = s.mem.read (s.src.toNat + k) ^^^ keystream s.keybox ((s.streamPos.toNat + k) % 2 ^ 32) ^^^
        keystream s.keybox ((s.streamPos.toNat + k) % 2 ^ 32) := by rw [once.output k hkl, once.keybox]
    _ = s.mem.read (s.src.toNat + k) := by rw [BitVec.xor_assoc, BitVec.xor_self, BitVec.xor_zero]
  refine ⟨t, u, ht, hu, restored, fun hsrc hd a => ?_⟩
  subst hd
  by_cases ha : a < s.dst.toNat ∨ s.dst.toNat + s.len.toNat ≤ a
  · exact (twice.frame a ha).trans (once.frame a ha)
  · obtain ⟨k, rfl⟩ : ∃ k, a = s.dst.toNat + k := ⟨a - s.dst.toNat, by omega⟩
    exact (restored k (by omega)).trans (by rw [hsrc])

end Sys2Proof.Machine
end

section
/-! SUPPORT. Errors (60_exceptions.md R200 to R204): which check reports (O26), what an error completion changes (O28), and what an error
depends on (O29). -/

namespace Sys2Proof.Machine

variable {s t : State} {i : Instr}

/-! ### The first failing check (60_exceptions.md R201) -/

/-- The search for a bad address finds the least one. -/
theorem firstBad_eq_some_iff {c : Chip} {k : AccessKind} {base n a : Nat} : firstBad c k base n = some a ↔ LeastBad c k base n a := by
  simp only [firstBad, LeastBad, List.find?_range'_eq_some, List.mem_range'_1, Bool.not_eq_true', Bool.not_not]
  tauto

theorem windowCheck_eq_range (h : ¬ s.InRange (inSize i s) (outSize i s)) : windowCheck i s = some .range :=
  if_pos (Bool.eq_false_iff.mpr (mt (inRange_iff i s).mp h))

section InRange

variable (hr : s.InRange (inSize i s) (outSize i s))

include hr

theorem inRange_ne_false : inRange i s ≠ false := by
  rw [(inRange_iff i s).mpr hr]
  exact nofun

theorem windowCheck_eq_overlap (ho : s.PartialOverlap (inSize i s) (outSize i s)) : windowCheck i s = some .overlap := by
  rw [windowCheck, if_neg (inRange_ne_false hr), if_pos ((overlaps_iff i s).mpr ho)]

variable (ho : ¬ s.PartialOverlap (inSize i s) (outSize i s))

include ho

theorem windowCheck_eq_bus_of_badRead {a : Nat} (h : LeastBad s.chip .read s.src.toNat (inSize i s) a) :
    windowCheck i s = some (.bus (BitVec.ofNat 32 a)) := by
  rw [windowCheck, if_neg (inRange_ne_false hr), if_neg (mt (overlaps_iff i s).mp ho), firstBadRead,
    firstBad_eq_some_iff.mpr h]

theorem windowCheck_eq_bus_of_badWrite (hread : ∀ k, k < inSize i s → s.chip.admits .read (s.src.toNat + k) = true) {a : Nat}
    (h : LeastBad s.chip .write s.dst.toNat (outSize i s) a) : windowCheck i s = some (.bus (BitVec.ofNat 32 a)) := by
  rw [windowCheck, if_neg (inRange_ne_false hr), if_neg (mt (overlaps_iff i s).mp ho), firstBadRead,
    (firstBad_none_iff _ _ _ _).mpr hread, firstBadWrite, firstBad_eq_some_iff.mpr h]

end InRange

/-- When the operands pass, the window checks decide. -/
theorem precheck_of_operands (hi : i ≠ .nop) (hargs : ¬ OperandsRefused i s) : precheck i s = windowCheck i s := by
  rw [OperandsRefused, ← wantsBlocks_iff, not_or, not_or] at hargs
  obtain ⟨hkey, hblocks, hempty⟩ := hargs
  rw [precheck, if_neg hi, if_neg hkey, if_neg hblocks, if_neg hempty]

theorem exec_of_precheck_error {e : CmdError} (hi : i ≠ .nop) (h : precheck i s = some e) :
    exec i s = .next (failedWith s e.code e.info) := by
  rw [exec_eq_runCommand hi, runCommand_precheck_error h]
  rfl

/-- Settles O26: the decoder's check, the three checks of the operands, and the window checks in their order. -/
theorem precheckReportsFirstError : Obligations.PrecheckReportsFirstError := by
  refine ⟨fun s h hd => step_of_illegal h hd, fun s => ⟨_, exec_nop s, rfl⟩, fun s hk => ?_,
    fun i s hi hl => exec_partial_block ((wantsBlocks_iff i).2 hi) hl, fun s hl => ?_, fun i s hi hargs => ?_⟩
  · exact exec_of_precheck_error (e := .noKeybox) (by decide) (by simp [precheck, hk])
  · exact exec_of_precheck_error (e := .emptyKey) (by decide) (by simp [precheck, wantsBlocks, hl])
  · have fails {e : CmdError} (h : windowCheck i s = some e) : exec i s = .next (failedWith s e.code e.info) :=
      exec_of_precheck_error hi ((precheck_of_operands hi hargs).trans h)
    exact ⟨fun hr => fails (windowCheck_eq_range hr), fun hr ho => fails (windowCheck_eq_overlap hr ho), fun hr ho =>
      ⟨fun a ha => fails (windowCheck_eq_bus_of_badRead hr ho ha),
        fun hread a ha => fails (windowCheck_eq_bus_of_badWrite hr ho hread ha)⟩⟩

/-! ### An error completion (60_exceptions.md R202, R203) -/

theorem CmdError.code_pos (e : CmdError) : 1 ≤ e.code.toNat :=
  Nat.pos_of_ne_zero fun h => e.code_ne_zero (BitVec.eq_of_toNat_eq h)

/-- DONE is set at every completion, so the IRQ is then IRQ_EN (60_exceptions.md R210). -/
theorem exec_irq (h : exec i s = .next t) : t.irq = s.irqEn := by
  rw [exec_eq h]
  exact Bool.and_true _

/-- A completion with an output clears ERR, so a command that sets it has raised an error. -/
theorem exec_err (h : exec i s = .next t) (herr : t.err = true) : ∃ e, t = s.raise e := by
  rcases exec_cases h with he | ⟨out, -, -, -, rfl⟩
  · exact he
  · exact nomatch herr

/-- Settles O28: `raise` is the error completion, and rewrites every field that an accepted START clears. -/
theorem errorChangesCompletionFieldsOnly : Obligations.ErrorChangesCompletionFieldsOnly := by
  refine ⟨fun i s t h herr => ?_, fun _ _ _ => rfl⟩
  obtain ⟨e, rfl⟩ := exec_err h herr
  exact ⟨e.code, e.info, e.code_pos, e.code_le, rfl, exec_irq h⟩

/-! ### What an error depends on (60_exceptions.md R204) -/

/-- `s'` agrees with `s` on all that an error depends on. -/
structure ErrorInputsAgree (s s' : State) : Prop where
  chip : s'.chip = s.chip
  src : s'.src = s.src
  dst : s'.dst = s.dst
  len : s'.len = s.len
  kbValid : s'.kbValid = s.kbValid
  input : s'.input = s.input

namespace ErrorInputsAgree

variable {s' : State} (h : ErrorInputsAgree s s')

include h

/-- No other field takes part in `Precheck` (60_exceptions.md R201). -/
theorem precheck_eq (i : Instr) : precheck i s' = precheck i s := by
  have same : { s' with chip := s.chip, src := s.src, dst := s.dst, len := s.len, kbValid := s.kbValid } = s' := by
    rw [← h.chip, ← h.src, ← h.dst, ← h.len, ← h.kbValid]
  rw [← same]
  rfl

/-- Only the body of STREAM_DECIPHER reads the key box and STREAM_POS. -/
theorem bodyOf_eq (hi : i ≠ .streamDecipher) (input : List Byte) : bodyOf i s' input = bodyOf i s input := by
  cases i with
  | streamDecipher => exact absurd rfl hi
  | nop | unpad | keyboxBuild | metaUnmask => rfl
  | ecbDecryptCore | ecbDecryptMeta | metaDecrypt | unwrapKey =>
    simp only [bodyOf, bodyEcbDecryptCore, bodyEcbDecryptMeta, bodyMetaDecrypt, bodyUnwrapKey, h.chip]

/-- The body of STREAM_DECIPHER has no error, and every other result is the same. -/
theorem resultOf_error_iff {e : CmdError} : resultOf i s' = .error e ↔ resultOf i s = .error e := by
  rw [resultOf, resultOf, h.precheck_eq, h.input]
  by_cases hi : i = .streamDecipher
  · subst hi
    split
    · rfl
    · exact ⟨nofun, nofun⟩
  · rw [h.bodyOf_eq hi]

end ErrorInputsAgree

/-- On a coherent platform the engine reads what memory holds, so the same memory is the same input (20_memory.md R62). -/
theorem input_congr {s' : State} (coherent : s.chip.dmaCoherent = true) (chip : s'.chip = s.chip) (src : s'.src = s.src)
    (len : s'.len = s.len) (mem : ∀ a, s'.mem.read a = s.mem.read a) : s'.input = s.input := by
  have reads {u : State} (hc : u.chip.dmaCoherent = true) : u.dmaReadByte = u.mem.read := funext fun a => by
    simp [State.dmaReadByte, mark_coherent hc, CacheMark.unflushed]
  rw [State.input, State.input, State.dmaRead, State.dmaRead, reads coherent, reads (chip ▸ coherent), src, len, funext mem]

/-- Settles O29: the two runs raise the same error, or none. -/
theorem errorsAreDeterministic : Obligations.ErrorsAreDeterministic := by
  intro i s s' t t' coherent chip src dst len kbValid mem ht ht'
  have agree : ErrorInputsAgree s s' := ⟨chip, src, dst, len, kbValid, input_congr coherent chip src len mem⟩
  rcases exec_result ht with ⟨e, he, rfl⟩ | ⟨out, ho, -, rfl⟩ <;> rcases exec_result ht' with ⟨e', he', rfl⟩ | ⟨out', ho', -, rfl⟩
  · cases (agree.resultOf_error_iff.mpr he).symm.trans he'
    exact ⟨rfl, rfl, rfl⟩
  · cases (agree.resultOf_error_iff.mpr he).symm.trans ho'
  · cases (agree.resultOf_error_iff.mp he').symm.trans ho
  · exact ⟨rfl, rfl, rfl⟩

end Sys2Proof.Machine
end

section
/-! SUPPORT. The interrupt output (60_exceptions.md R210, R211): what raises it (O47) and what lowers it (O48). -/

namespace Sys2Proof.Machine

variable {s t : State}

/-! ### The IRQ after each register write -/

/-- A write of STATUS lowers the IRQ by bit 1 alone, when the engine is idle (10_state.md R24). -/
theorem acknowledge_irq (s : State) (v : Word) : (s.acknowledge v).irq = (s.irq && (s.busy || !v.getLsbD 1)) := by
  rcases acknowledge_cases s v with ⟨hb, h⟩ | ⟨hb, h⟩ <;> simp [h, hb, State.irq, Bool.and_assoc]

/-- After a write of CTRL the IRQ is the new IRQ_EN and DONE, which a reset or an accepted START clears (10_state.md R23). -/
theorem writeCtrl_irq (s : State) (v : Word) :
    (s.writeCtrl v).irq = (!ctrlSrst v && !(ctrlStart v && !s.busy) && (ctrlIrqEn v && s.done)) := by
  rcases writeCtrl_cases s v with ⟨h1, h⟩ | ⟨h1, h0, hb, h⟩ | ⟨h1, h0, h⟩ <;> rw [h]
  · simp [h1, State.irq, State.resetEngine]
  · simp [h1, h0, hb, State.irq]
  · rcases h0 with h0 | hb
    · simp [h1, h0, State.irq]
    · simp [h1, hb, State.irq]

theorem whenIdle_irq {u : State} (h : u.irq = s.irq) : (s.whenIdle u).irq = s.irq := by
  rcases whenIdle_cases s u with hw | ⟨-, hw⟩ <;> rw [hw]
  exact h

/-- A register write raises the IRQ at CTRL only. -/
theorem irq_of_writeRegister {o : BitVec 12} (ho : o ≠ 0x004) {v : Word} (h : (s.writeRegister o v).irq = true) : s.irq = true := by
  rw [State.writeRegister, if_neg ho] at h
  split at h
  · rw [acknowledge_irq] at h
    exact ((Bool.and_eq_true _ _).mp h).1
  iterate 5
    split at h
    · rwa [whenIdle_irq (by rfl)] at h
  exact h

/-! ### The IRQ after each access of the host -/

theorem MemoryOnly.irq (h : MemoryOnly s t) : t.irq = s.irq := (congrArg State.irq h.1 :)

theorem irq_of_hostRegWrite {o : BitVec 12} {size : AccessSize} {v : Word} (hop : HostOp.regWrite o size v ≠ .regWrite 0x004 .word v)
    (h : (s.hostRegWrite o size v).irq = true) : s.irq = true := by
  unfold State.hostRegWrite at h
  split at h
  · rename_i ha
    obtain rfl : size = .word := by simpa using ((Bool.and_eq_true _ _).mp ha).1
    exact irq_of_writeRegister (fun ho => hop (by rw [ho])) h
  · exact h

/-- An access of the host raises the IRQ only when it writes CTRL. -/
theorem irq_of_hostAccess {op : HostOp} (hop : ∀ v, op ≠ .regWrite 0x004 .word v) (ht : hostAccess op s = .next t)
    (h : t.irq = true) : s.irq = true := by
  cases op with
  | regRead offset size => cases ht; exact h
  | regWrite offset size v => cases ht; exact irq_of_hostRegWrite (s := s.popHost) (hop v) h
  | poll offset mask value =>
    simp only [hostAccess] at ht
    split at ht
    · cases ht; exact h
    · cases ht; exact h
  | waitIrq =>
    simp only [hostAccess] at ht
    split at ht
    · assumption
    · cases ht; exact h
  | memRead addr =>
    obtain ⟨-, r, rfl⟩ := hostMemRead_cases ht
    exact h
  | memWrite addr b => exact (hostMemWrite_memoryOnly addr.isLt ht).irq.symm.trans h
  | cacheClean addr n => exact (maintain_memoryOnly cleanByte_memoryOnly ht).irq.symm.trans h
  | cacheInvalidate addr n => exact (maintain_memoryOnly invalidateByte_memoryOnly ht).irq.symm.trans h
  | software => cases ht; exact h
  | powerOnReset => cases ht; exact nomatch h

theorem irq_of_ctrlWrite {v : Word} (hd : s.hostDoes (.regWrite 0x004 .word v)) (h : step s = .next t) :
    t.irq = (!ctrlSrst v && !(ctrlStart v && !s.busy) && (ctrlIrqEn v && s.done)) := by
  rw [step_writeCtrl hd] at h
  cases h
  exact writeCtrl_irq s.afterAccess v

theorem irq_of_statusWrite {v : Word} (hd : s.hostDoes (.regWrite 0x008 .word v)) (h : step s = .next t) :
    t.irq = (s.irq && (s.busy || !v.getLsbD 1)) := by
  rw [step_regWrite rfl hd] at h
  cases h
  exact acknowledge_irq s.afterAccess v

theorem irq_of_powerOnReset (hd : s.hostDoes .powerOnReset) (h : step s = .next t) : t.irq = false := by
  rw [step_of_hostDoes hd] at h
  cases h
  rfl

/-! ### The statements -/

/-- Settles O47: the engine's completion sets DONE, and of the host's accesses only a write of CTRL can raise the IRQ. -/
theorem irqRisesOnlyAtCompletion : Obligations.IrqRisesOnlyAtCompletion := by
  refine ⟨fun _ => rfl, fun _ _ _ => exec_irq, fun s t h low high => ?_⟩
  rcases step_effect h with rfl | ⟨op, hd, -⟩ | ⟨hm, hend⟩
  · exact absurd (low.symm.trans high) Bool.false_ne_true
  · by_cases hop : ∃ v, op = .regWrite 0x004 .word v
    · obtain ⟨v, rfl⟩ := hop
      rw [irq_of_ctrlWrite hd h] at high
      obtain ⟨enabled, done⟩ := (Bool.and_eq_true _ _).mp ((Bool.and_eq_true _ _).mp high).2
      exact .inr ⟨v, hd, enabled, done⟩
    · rw [step_of_hostDoes hd] at h
      exact absurd (low.symm.trans (irq_of_hostAccess (s := s.tick) (not_exists.mp hop) h high)) Bool.false_ne_true
  · refine .inl ⟨hm, ?_⟩
    rcases hend with ⟨e, rfl⟩ | ⟨i, -, he⟩
    · exact ((Bool.and_eq_true _ _).mp high).1
    · exact (exec_irq he).symm.trans high

/-- Settles O48: the bits that the IRQ after a write of STATUS or CTRL depends on, and the reset. -/
theorem irqFalls : Obligations.IrqFalls := by
  intro s t v h
  refine ⟨fun hd hb h1 => ?_, fun hd hb h0 => ?_, fun hd h1 => ?_, fun hd h2 => ?_, fun hd => irq_of_powerOnReset hd h,
    fun hd h1 => ?_⟩
  · rw [irq_of_statusWrite hd h, hb, h1]
    exact Bool.and_false _
  · simp [irq_of_ctrlWrite hd h, show ctrlStart v = true from h0, hb]
  · simp [irq_of_ctrlWrite hd h, show ctrlSrst v = true from h1]
  · simp [irq_of_ctrlWrite hd h, show ctrlIrqEn v = false from h2]
  · rw [irq_of_statusWrite hd h, h1, Bool.not_false, Bool.or_true, Bool.and_true]

end Sys2Proof.Machine
end

section
/-! SUPPORT. The two resets (70_reset_and_hazards.md R240 to R243): the registers, memory and cache marks after a soft reset (O36) and
after the reset input (O35), and the invariant of the state after power-on reset (O55). -/

namespace Sys2Proof.Machine

variable {s : State}

/-! ### The state after power-on reset -/

theorem resetOn_statusWord (c : Chip) : (State.resetOn c).statusWord = 0 := by
  simp [State.statusWord, flagAt, State.resetOn]

/-- On every chip the state after power-on reset has nothing listed, flagged or recorded, and no valid key box
(70_reset_and_hazards.md R240). -/
theorem resetOn_inv (c : Chip) : (State.resetOn c).Inv where
  mem_wf := ⟨.nil, fun _ h => nomatch h⟩
  cache_wf := ⟨.nil, fun _ h => nomatch h⟩
  busy_clear h := nomatch h
  err_code h := nomatch h
  code_le := Nat.zero_le 8
  code_outLen _ := rfl
  code_info _ := rfl
  box_perm h := nomatch h

/-! ### What a reset leaves -/

/-- A reset leaves the registers of power-on reset, and what is not the engine's as it was but for memory and the cache marks
(70_reset_and_hazards.md R240, R241, R243). -/
theorem resetEngine_eq (s : State) :
    s.resetEngine = { State.resetOn s.chip with
      keybox := s.resetEngine.keybox, mem := s.resetEngine.mem, cache := s.resetEngine.cache,
      host := s.host, turns := s.turns, answer := s.answer, draws := s.draws } := by
  unfold State.resetEngine State.abort
  rw [dmaWrite_eq]
  rfl

/-- With no command running a reset aborts nothing (70_reset_and_hazards.md R242). -/
theorem resetEngine_of_idle (hb : s.busy = false) : s.resetEngine = s.resetRegisters := by
  simp [State.resetEngine, State.abort, State.abortWindow, State.running, hb, State.dmaWrite]

/-! ### The step of a reset -/

/-- A write of CTRL with SRST resets the engine, whatever its other bits (10_state.md R23). -/
theorem step_softReset {v : Word} (h : s.hostDoes (.regWrite 0x004 .word v)) (h1 : v.getLsbD 1 = true) :
    step s = .next { s.afterAccess.resetEngine with answer := .accepted } := by
  rw [step_writeCtrl h, writeCtrl_of_srst h1]

/-- The reset input resets the engine (70_reset_and_hazards.md R240). -/
theorem step_powerOnReset (h : s.hostDoes .powerOnReset) : step s = .next s.afterAccess.resetEngine := step_of_hostDoes h

/-- Both resets are the one reset of the engine, beside the bus's answer. -/
theorem step_reset {t : State}
    (h : s.hostDoes .powerOnReset ∨ ∃ v : Word, s.hostDoes (.regWrite 0x004 .word v) ∧ v.getLsbD 1 = true) (ht : step s = .next t) :
    t = { s.afterAccess.resetEngine with answer := t.answer } := by
  rcases h with h | ⟨v, h, h1⟩
  · rw [step_powerOnReset h] at ht
    cases ht; rfl
  · rw [step_softReset h h1] at ht
    cases ht; rfl

/-! ### The statements -/

/-- Settles O36: the soft reset is a reset of the engine, which aborts the running command if any. -/
theorem softResetAborts : Obligations.SoftResetAborts := by
  intro s v h h1
  refine ⟨_, step_softReset h h1, ?_, fun a ha => resetEngine_read (s := s.afterAccess) ha, fun hb => ?_⟩
  · rw [resetEngine_eq]
    rfl
  · rw [resetEngine_of_idle (s := s.afterAccess) hb]
    rfl

/-- Settles O35: the reset values are those of `resetOn`, and both resets are a reset of the engine. -/
theorem powerOnResetValues : Obligations.PowerOnResetValues := by
  refine ⟨fun c => ⟨rfl, resetOn_statusWord c, rfl, rfl, rfl, rfl, rfl, rfl, rfl, rfl, rfl, rfl, fun _ => rfl⟩,
    fun s h => ⟨_, step_powerOnReset h, resetEngine_eq s.afterAccess⟩, fun s t h ht => ?_⟩
  rw [step_reset h ht]
  refine ⟨fun a ha => ⟨resetEngine_read (s := s.afterAccess) ha, resetEngine_mark (s := s.afterAccess) ha⟩, fun hb => ?_⟩
  rw [resetEngine_of_idle (s := s.afterAccess) hb]
  exact ⟨rfl, rfl⟩

/-- Settles O55: the model's own chip is one of them. -/
theorem resetMeetsInvariant : Obligations.ResetMeetsInvariant := ⟨resetOn_inv, resetOn_inv Config.chip⟩

end Sys2Proof.Machine
end

section
/-! SUPPORT. The host's byte accesses outside the running windows (70_reset_and_hazards.md R257; O50): to plain memory, to the register
block and to another device. -/

namespace Sys2Proof.Machine

variable {s : State} {a : Nat} {b : Byte}

/-- Plain memory is what neither a device nor the register block decodes (20_memory.md R52). -/
theorem plain_iff {c : Chip} : c.plain a = true ↔ c.deviceAt a = false ∧ c.ownBlock a = false := by
  simp [Chip.plain]

/-! ### Reads -/

section Read

variable (ho : s.runningOutput a = false)
include ho

theorem hostMemRead_plain (hp : s.chip.plain a = true) (hm : (s.mark a).outdated = false) :
    s.hostMemRead a = .next { s with answer := .byte (s.mem.read a) } := by
  obtain ⟨hd, hb⟩ := plain_iff.mp hp
  simp [State.hostMemRead, ho, hb, hd, hm]

theorem hostMemRead_ownBlock (hb : s.chip.ownBlock a = true) : s.hostMemRead a = .next { s with answer := .busError } := by
  simp [State.hostMemRead, ho, hb]

theorem hostMemRead_device (hb : s.chip.ownBlock a = false) (hd : s.chip.deviceAt a = true) :
    s.hostMemRead a = .refused .deviceAccess := by
  simp [State.hostMemRead, ho, hb, hd]

end Read

/-! ### Writes -/

section Write

variable (hi : s.runningInput a = false) (ho : s.runningOutput a = false)
include hi ho

theorem hostMemWrite_plain (hp : s.chip.plain a = true) :
    s.hostMemWrite a b = .next { s.setMark a .dirty with mem := s.mem.write a b, answer := .accepted } := by
  obtain ⟨hd, hb⟩ := plain_iff.mp hp
  simp [State.hostMemWrite, hi, ho, hb, hd]

theorem hostMemWrite_ownBlock (hb : s.chip.ownBlock a = true) : s.hostMemWrite a b = .next { s with answer := .busError } := by
  simp [State.hostMemWrite, hi, ho, hb]

theorem hostMemWrite_device (hb : s.chip.ownBlock a = false) (hd : s.chip.deviceAt a = true) :
    s.hostMemWrite a b = .refused .deviceAccess := by
  simp [State.hostMemWrite, hi, ho, hb, hd]

end Write

/-! ### The statement -/

/-- Settles O50: after the race test the access goes to one of the three kinds of address. -/
theorem hostDataAccess : Obligations.HostDataAccess := by
  intro s a b ho
  refine ⟨fun hp => ⟨fun h hm => ?_, fun h hi => ?_⟩, fun hb => ⟨fun h => ?_, fun h hi => ?_⟩,
    fun hb hd => ⟨fun h => ?_, fun h hi => ?_⟩⟩ <;> rw [step_of_hostDoes h]
  · exact hostMemRead_plain (s := s.tick.popHost) ho hp hm
  · have written := hostMemWrite_plain (s := s.tick.popHost) (b := b) hi ho hp
    exact ⟨_, written, (hostMemWrite_memoryOnly a.isLt written).1, fun x => read_write s.mem a.toNat x b⟩
  · exact hostMemRead_ownBlock (s := s.tick.popHost) ho hb
  · exact hostMemWrite_ownBlock (s := s.tick.popHost) hi ho hb
  · exact hostMemRead_device (s := s.tick.popHost) ho hb hd
  · exact hostMemWrite_device (s := s.tick.popHost) hi ho hb hd

end Sys2Proof.Machine
end
